-- ==== Sys2Proof/Word.lean ====
section
/-! DEFINITION. The word types of the block, named by the spec's own terms (00_scope.md R10, R14). -/

namespace Sys2Proof

/-- A byte is 8 bits (R14). -/
abbrev Byte := BitVec 8

/-- A bus word (one host access), a CRC state, a table entry, a length: 32 bits (R10, R14). -/
abbrev Word32 := BitVec 32

/-- A word of the buffer, an accumulator, a multiplier operand: 64 bits (R10, R14). -/
abbrev Word64 := BitVec 64

/-- A byte address of external memory: `ADDR_W = 64` bits (R10). -/
abbrev Addr := BitVec 64

end Sys2Proof
end

