-- ==== Sys2Proof/Syntax.lean ====
section
/-! DEFINITION. The 16 operations of 30_encoding.md R77, which "stand where an ISA manual says instruction" (R18). -/

namespace Sys2Proof

/-- One constructor per row of spec/opcode_table.json. All operands but `imm8` are implicit (R76). -/
inductive Instr where
  /-- `NOP`, opcode 0x00 (R105). -/
  | nop
  /-- `INIT`, opcode 0x01 (R106). -/
  | init
  /-- `S8`, opcode 0x02 (R107). -/
  | s8
  /-- `S64`, opcode 0x03 (R108). -/
  | s64
  /-- `S8I imm8`, opcode 0x04 (R109): the immediate is the data byte (R76). -/
  | s8i (byte : Byte)
  /-- `FIN`, opcode 0x05 (R110). -/
  | fin
  /-- `FSET`, opcode 0x08 (R111). -/
  | fset
  /-- `SA`, opcode 0x09 (R112). -/
  | sa
  /-- `SB`, opcode 0x0A (R113). -/
  | sb
  /-- `LUT`, opcode 0x0B (R114). -/
  | lut
  /-- `LUTI imm8`, opcode 0x0C (R115): the immediate is the ROM index (R76). -/
  | luti (index : Nat)
  /-- `CLM`, opcode 0x0D (R116). -/
  | clm
  /-- `MRG`, opcode 0x0E (R117). -/
  | mrg
  /-- `ADV`, opcode 0x0F (R118). -/
  | adv
  /-- `CRC`, opcode 0x10 (R122). -/
  | crc
  /-- `SRST`, opcode 0x1F (R138). -/
  | srst
  deriving DecidableEq, Repr

end Sys2Proof
end

