-- ==== Sys2Proof/WellFormed.lean ====
section
/-! DEFINITION. Which terms of `Instr` are operations of the hardware: the ones a command word can carry. -/

namespace Sys2Proof

/-- The one operand an `Instr` holds as a number is the ROM index of `LUTI`, an unsigned 8-bit immediate (R76, R115). -/
abbrev Instr.WellFormed (i : Instr) : Prop :=
  match i with
  | .luti index => index < 256
  | .nop | .init | .s8 | .s64 | .s8i _ | .fin | .fset | .sa | .sb | .lut | .clm | .mrg | .adv | .crc | .srst => True

end Sys2Proof
end

