-- ==== Sys2Proof/Decode.lean ====
section
/-! DEFINITION. Command words: the decoder of 30_encoding.md R78, total on all 2^32 words and rejecting by name, and
after it the encoder of R74, R75 and R77. -/

namespace Sys2Proof

/-- Why a command word is ILLEGAL (R78). -/
inductive IllegalWord where
  /-- The opcode is not in the table of R77 (R79). -/
  | reservedOpcode
  /-- The opcode is known and a must-be-zero field is not zero (R80). -/
  | fieldNotZero
  deriving DecidableEq, Repr

/-- Bits 7:0 of a command word: the opcode (R74, R75). -/
def opcodeField (w : Word32) : BitVec 8 := w.extractLsb' 0 8

/-- Bits 15:8 of a command word in format I: `imm8` (R75, R76). -/
def imm8Field (w : Word32) : BitVec 8 := w.extractLsb' 8 8

/-- Bits 31:8 of a command word, which format Z requires to be zero (R74). -/
def zeroFieldZ (w : Word32) : BitVec 24 := w.extractLsb' 8 24

/-- Bits 31:16 of a command word, which format I requires to be zero (R75). -/
def zeroFieldI (w : Word32) : BitVec 16 := w.extractLsb' 16 16

/-- The operations of format Z by opcode (R77). -/
def formatZ (op : BitVec 8) : Option Instr :=
  match op.toNat with
  | 0x00 => some .nop
  | 0x01 => some .init
  | 0x02 => some .s8
  | 0x03 => some .s64
  | 0x05 => some .fin
  | 0x08 => some .fset
  | 0x09 => some .sa
  | 0x0A => some .sb
  | 0x0B => some .lut
  | 0x0D => some .clm
  | 0x0E => some .mrg
  | 0x0F => some .adv
  | 0x10 => some .crc
  | 0x1F => some .srst
  | _ => none

/-- The operations of format I by opcode and `imm8` (R77). -/
def formatI (op : BitVec 8) (imm8 : BitVec 8) : Option Instr :=
  match op.toNat with
  | 0x04 => some (.s8i imm8)
  | 0x0C => some (.luti imm8.toNat)
  | _ => none

/-- `decode(w)` of R78. -/
def decode (w : Word32) : Except IllegalWord Instr :=
  match formatI (opcodeField w) (imm8Field w) with
  | some i => if zeroFieldI w = 0#16 then .ok i else .error .fieldNotZero
  | none =>
    match formatZ (opcodeField w) with
    | some i => if zeroFieldZ w = 0#24 then .ok i else .error .fieldNotZero
    | none => .error .reservedOpcode

/-- The instruction the decoder reads from the table's numbering of a word's bits. A command word is exactly 32 bits
(R73), carried whole by one host write, so bit 0 of the table's numbering is bit 0 of the word. -/
def decodeTableWord (nbits w : Nat) : Option Instr :=
  let bits := w % 2 ^ nbits
  if bits < 2 ^ 32 then (decode (BitVec.ofNat 32 bits)).toOption else none

/-- The opcode of each operation (R77). -/
def opcodeOf (i : Instr) : BitVec 8 :=
  match i with
  | .nop => 0x00#8
  | .init => 0x01#8
  | .s8 => 0x02#8
  | .s64 => 0x03#8
  | .s8i _ => 0x04#8
  | .fin => 0x05#8
  | .fset => 0x08#8
  | .sa => 0x09#8
  | .sb => 0x0A#8
  | .lut => 0x0B#8
  | .luti _ => 0x0C#8
  | .clm => 0x0D#8
  | .mrg => 0x0E#8
  | .adv => 0x0F#8
  | .crc => 0x10#8
  | .srst => 0x1F#8

/-- Bits 15:8 of an operation's word: its immediate, or zero in format Z (R74, R75). -/
def immediateOf (i : Instr) : BitVec 8 :=
  match i with
  | .s8i byte => byte
  | .luti index => BitVec.ofNat 8 index
  | .nop | .init | .s8 | .s64 | .fin | .fset | .sa | .sb | .lut | .clm | .mrg | .adv | .crc | .srst => 0#8

/-- The command word of an operation: the opcode in bits 7:0, the immediate in bits 15:8, zeros above (R74, R75). -/
def encode (i : Instr) : Word32 := ((immediateOf i).setWidth 32 <<< 8) ||| (opcodeOf i).setWidth 32

end Sys2Proof
end

