-- ==== Sys2Proof/Config.lean ====
section
/-! DEFINITION. The implementation parameters of 00_scope.md R6 to R13. `N_MAX`, `LEAF_BYTES` and `ROM_DEPTH` are
a record that `State` carries and no step writes, so that a claim can hold for every legal value, and with them the
platform's choice of 20_memory.md R65, where it shows the host window in external memory; `P` is a constant;
`WINDOW_BASE`, which the spec leaves OPEN, is an uninterpreted constant. -/

namespace Sys2Proof

/-- The parameters with a chosen value that "a model should keep as arguments" (00_scope.md section 4,
92_eei_decisions.md): `N_MAX` (R7), `LEAF_BYTES` (R8) and `ROM_DEPTH` (R9); and the external-memory address at which the
platform shows the host window, if it does: "whether the window is itself visible at some external-memory address, is
the platform's" (20_memory.md R65). -/
structure Config where
  nMax       : Nat
  leafBytes  : Nat
  romDepth   : Nat
  windowView : Option Addr := none
  deriving DecidableEq, Repr

/-- The values this hardware takes: `N_MAX = 128` (R7), `LEAF_BYTES = 112` (R8), `ROM_DEPTH = 256` (R9), on a platform that
does not show the window in external memory. -/
def Config.hardware : Config := { nMax := 128, leafBytes := 112, romDepth := 256 }

/-- What R7, R8 and R9 ask of the parameters. -/
abbrev Config.Legal (c : Config) : Prop :=
  1 ≤ c.nMax ∧ c.nMax ≤ 255 ∧ c.nMax ≤ c.romDepth ∧ c.romDepth = 2 * c.nMax ∧
    16 ∣ c.leafBytes ∧ 16 ≤ c.leafBytes ∧ c.leafBytes ≤ 16 * c.nMax

/-- The generator polynomial `P`, "one fixed 32-bit constant", in reflected form (R6). -/
def Config.poly : Word32 := 0x82F63B78#32

/-- `WINDOW_BASE` is OPEN and a multiple of 128 (R13, R41): its upper 57 bits are an uninterpreted constant. -/
opaque Config.windowIndex : BitVec 57

/-- `WINDOW_BASE`, the bus address of the host register window (R13). -/
def Config.windowBase : Addr := Config.windowIndex.setWidth 64 <<< 7

end Sys2Proof
end

