-- ==== Sys2Proof/Machine/Datapath.lean ====
section
/-! DEFINITION. The pure functions of 40_functions.md: the single-bit step, the native steps, the oracle, the
carryless multiplier and the table recurrence. -/

namespace Sys2Proof.Machine

/-- `v[31:0]` of a 64-bit value (R14). -/
def lo32 (v : Word64) : Word32 := v.setWidth 32

/-- `v[63:32]` of a 64-bit value (R14). -/
def hi32 (v : Word64) : Word32 := v.extractLsb' 32 32

/-- `zext_64` of a 32-bit value (R14). -/
def zext64 (v : Word32) : Word64 := v.setWidth 64

/-- `lfsr1(r)`: shift right, and xor `P` in when the bit shifted out is set (R87). -/
def lfsr1 (r : Word32) : Word32 :=
  if r.getLsbD 0 then (r >>> 1) ^^^ Config.poly else r >>> 1

/-- `lfsr(r, k)`: `k` single-bit steps (R88). -/
def lfsr (r : Word32) : Nat → Word32
  | 0 => r
  | k + 1 => lfsr1 (lfsr r k)

/-- `step8(s, b)` (R89). -/
def step8 (s : Word32) (b : Byte) : Word32 := lfsr (s ^^^ b.setWidth 32) 8

/-- `lfsr1'(s, d)`: the oracle's step on one data bit (R90). -/
def serialBit (s : Word32) (d : Bool) : Word32 :=
  if s.getLsbD 0 ^^ d then (s >>> 1) ^^^ Config.poly else s >>> 1

/-- `bits(s, b, i)` of R90 with `left = 8 - i` bits still to come. -/
def serialBits (s : Word32) (b : Byte) : Nat → Word32
  | 0 => s
  | left + 1 => serialBits (serialBit s (b.getLsbD (7 - left))) b left

/-- The oracle `crc_serial(s, bytes)`: the bit-serial CRC of a byte string from a start state (R90). -/
def crcSerial (s : Word32) : List Byte → Word32
  | [] => s
  | b :: rest => crcSerial (serialBits s b 8) rest

/-- One of the 64 shifts of `step64`: `v(i+1)` from `v(i)` (R91). -/
def wordShift (v : Word64) : Word64 :=
  if v.getLsbD 0 then (v >>> 1) ^^^ zext64 Config.poly else v >>> 1

/-- `v(i)` of R91. -/
def wordShifts (v : Word64) : Nat → Word64
  | 0 => v
  | i + 1 => wordShift (wordShifts v i)

/-- `step64(s, w)`: the word is xored onto the zero-extended low state and shifted 64 times (R91). -/
def step64 (s w : Word64) : Word64 := wordShifts (zext64 (lo32 s) ^^^ w) 64

/-- `chain64(s, words)`: `step64` over a list of words (R92). -/
def chain64 (s : Word64) : List Word64 → Word64
  | [] => zext64 (lo32 s)
  | w :: rest => chain64 (step64 s w) rest

/-- The partial products of `clmul` of the bits of `b` below `i` (R95). -/
def clmulBelow (a b : Word64) : Nat → BitVec 128
  | 0 => 0
  | i + 1 => clmulBelow a b i ^^^ (if b.getLsbD i then a.setWidth 128 <<< i else 0)

/-- `clmul(a, b)`: the carryless product, 64 x 64 -> 128 bits (R95). -/
def clmul (a b : Word64) : BitVec 128 := clmulBelow a b 64

/-- Bits 63:0 of the carryless product, "only the low 64 bits are consumed" (R29, R96). -/
def clmulLow (a b : Word64) : Word64 := (clmul a b).setWidth 64

/-- `tbl(i)`: the running value of the table builder after `i` entries (R98). -/
def tbl : Nat → Word32
  | 0 => 1
  | i + 1 => lfsr (tbl i) 64

/-- A table of `len` entries as the builder emits it (R98, R101). -/
def buildTable (len : Nat) : List Word32 := (List.range len).map tbl

/-- The 64-bit word whose bytes, lowest first, are the list: little-endian (R58). -/
def wordOfBytes : List Byte → Word64
  | [] => 0
  | b :: rest => (wordOfBytes rest <<< 8) ||| b.setWidth 64

/-- The eight bytes `w[8i+7 : 8i]` of a word, lowest first (R58, R92). -/
def bytesOfWord (w : Word64) : List Byte := (List.range 8).map fun i => w.extractLsb' (8 * i) 8

end Sys2Proof.Machine
end

