-- ==== Sys2Proof/Machine/State.lean ====
section
/-! DEFINITION. The state of the machine as plain data (10_state.md), the moves of its agents (R12), the reasons a
step could stop, and the state after reset (R159). -/

namespace Sys2Proof.Machine

/-- The phases of the sequencer: the values `PHASE` holds, in the order of their codes (R34). "Codes 12, 13 and 14
are never held", so they have no constructor. -/
inductive Phase where
  /-- `P_IDLE`, code 0. -/
  | idle
  /-- `P_INIT`, code 1. -/
  | init
  /-- `P_ALIGN`, code 2. -/
  | align
  /-- `P_BULK`, code 3. -/
  | bulk
  /-- `P_LANES`, code 4. -/
  | lanes
  /-- `P_LUT`, code 5. -/
  | lut
  /-- `P_CLM`, code 6. -/
  | clm
  /-- `P_MRG`, code 7. -/
  | mrg
  /-- `P_ADV`, code 8. -/
  | adv
  /-- `P_WTAIL`, code 9. -/
  | wtail
  /-- `P_BTAIL`, code 10. -/
  | btail
  /-- `P_FIN`, code 11. -/
  | fin
  /-- `P_FAULT`, code 15. -/
  | fault
  deriving DecidableEq, Repr

/-- The fault causes of R142. A fault of the block is a next state of the machine (R141), not a stop of the model. -/
inductive FaultCode where
  /-- `F_BUS`, 1: the memory read touched an address that is not valid. -/
  | bus
  /-- `F_ALIGN`, 2: an 8-byte operation at an address that is not a multiple of 8. -/
  | align
  /-- `F_UNDER`, 3: fewer bytes remain than the operation consumes. -/
  | under
  /-- `F_ROM`, 4: the ROM index is not below `ROM_DEPTH`. -/
  | rom
  /-- `F_SEQ`, 5: the operation is out of fold order. -/
  | seq
  /-- `F_RANGE`, 6: `BUF + LEN >= 2^64`. -/
  | range
  deriving DecidableEq, Repr

/-- The 17 registers of the host window (R41). -/
inductive HostReg where
  | cmd | status | bufLo | bufHi | len | seed | result | id | accaV | accbV | kV | qLo | qHi | ptrLo | ptrHi | remV
  | foldV
  deriving DecidableEq, Repr

/-- A place of the host window: offset `4 * o` of its 128 bytes. Other offsets and other widths are no transactions
of this block, and "a model has no such move" (R54). -/
abbrev Offset := Fin 32

/-- External memory: its valid addresses with their bytes, addresses rising. An address that is not listed is not
valid (`Valid` and `Mem` of R13 in one list). -/
abbrev Memory := List Host.Cell

/-- One move of one agent. An execution "is an interleaving of host steps, engine steps and other writers' steps"
(R67), and a hardware reset "can happen in any state" (R158). -/
inductive Move where
  /-- `HostWrite(4 * off, v)` (R52). -/
  | hostWrite (off : Offset) (v : Word32)
  /-- `HostRead(4 * off)` (R53). -/
  | hostRead (off : Offset)
  /-- The engine takes its step, if it has one (R123). -/
  | engine
  /-- Another writer of external memory stores bytes from an address up (R67, R69). -/
  | memWrite (addr : Addr) (bytes : List Byte)
  /-- Hardware reset (R158). -/
  | hwReset
  deriving DecidableEq, Repr

/-- The reasons the model could stop with a fault: there are none. Every fault the spec describes is a state the
machine goes on from (R141), and no step raises anything else, so that this difference is safe. -/
inductive Fault where
  deriving DecidableEq, Repr

/-- The reasons the model could refuse an instruction. -/
inductive Refusal where
  /-- Raised by an arm of `exec` that has no meaning yet; no arm raises it now. Safe: the model stops there. -/
  | notModelled (mnemonic : String)
  deriving DecidableEq, Repr

/-- The whole state: "the 10 datapath registers, the 3 operand registers, PHASE, BUSY, DONE, FAULT, FCODE, CERR"
(R55); the parameters (R6 to R9); external memory (R56); and, the model's own, the moves still to come and the values
host reads have returned. The ROM and ID are constants (R40, R48) and need no field. -/
structure State where
  /-- `ACCA`, the accumulator of lane A (R19). -/
  acca     : Word64
  /-- `ACCB`, the accumulator of lane B (R20). -/
  accb     : Word64
  /-- `PTR`, the address of the next byte not yet consumed (R22). -/
  ptr      : Addr
  /-- `REM`, the count of remaining bytes (R23). -/
  rem      : Word32
  /-- `N`, the block count of the open fold, 0 when none is open (R25). -/
  n        : BitVec 8
  /-- `JA`, the lane-A words consumed in the open fold (R26). -/
  ja       : BitVec 8
  /-- `JB`, the lane-B words consumed in the open fold (R27). -/
  jb       : BitVec 8
  /-- `K`, the table constant latch (R28). -/
  k        : Word32
  /-- `Q`, the product latch (R29). -/
  q        : Word64
  /-- `RESULT` (R30). -/
  result   : Word32
  /-- `BUF`, the byte address of the buffer (R31). -/
  buf      : Addr
  /-- `LEN`, its length in bytes (R31). -/
  len      : Word32
  /-- `SEED`, the CRC state to continue from (R31). -/
  seed     : Word32
  /-- `PHASE`, the engine's program counter (R33, R34). -/
  phase    : Phase
  /-- `BUSY` (R35). -/
  busy     : Bool
  /-- `DONE` (R36). -/
  done     : Bool
  /-- `FAULT` (R37). -/
  fault    : Bool
  /-- `FCODE`, the cause of the fault; `none` is the code 0 (R37, R142). -/
  fcode    : Option FaultCode
  /-- `CERR` (R38). -/
  cerr     : Bool
  /-- `N_MAX`, `LEAF_BYTES` and `ROM_DEPTH`; no step writes them. -/
  cfg      : Config
  /-- External memory (R56, R57). -/
  mem      : Memory
  /-- The moves of the agents still to come, the next one first (model's own, R12). -/
  schedule : List Move
  /-- The values host reads have returned, the latest first (model's own, R53). -/
  replies  : List Word32
  deriving DecidableEq, Repr

/-- The state after reset (R159), of this hardware's parameters, with no valid memory and no move to come. -/
def State.reset : State where
  acca := 0
  accb := 0
  ptr := 0
  rem := 0
  n := 0
  ja := 0
  jb := 0
  k := 0
  q := 0
  result := 0
  buf := 0
  len := 0
  seed := 0
  phase := .idle
  busy := false
  done := false
  fault := false
  fcode := none
  cerr := false
  cfg := Config.hardware
  mem := []
  schedule := []
  replies := []

end Sys2Proof.Machine
end

