-- ==== Sys2Proof/Machine/Ops.lean ====
section
/-! DEFINITION. The shared operations over external memory and over the state: reading and storing bytes, fault
entry (60_exceptions.md R141), the dropped host access (R144) and the reset of the block (R158, R159). -/

namespace Sys2Proof.Machine

/-- What an address that is not listed reads as: nothing, it is not valid (R57). -/
def Memory.unlisted : Option Byte := none

/-- The byte at an address, if the address is valid (R57). -/
def Memory.read : Memory → Nat → Option Byte
  | [], _ => Memory.unlisted
  | (key, b) :: rest, a => if key = a then some b else Memory.read rest a

/-- `Valid(addr)` (R57). -/
def Memory.valid (m : Memory) (a : Nat) : Bool := (m.read a).isSome

/-- The `count` bytes from an address up, if all of them are valid (R57). -/
def Memory.readBytes (m : Memory) (a : Nat) : Nat → Option (List Byte)
  | 0 => some []
  | count + 1 =>
    match m.read a, Memory.readBytes m (a + 1) count with
    | some b, some bs => some (b :: bs)
    | _, _ => none

/-- The byte at a valid address replaced. `Valid` is the platform's and fixed (R57), so an address that is not valid
holds nothing to replace. -/
def Memory.store : Memory → Nat → Byte → Memory
  | [], _, _ => []
  | (key, old) :: rest, a, b => if key = a then (key, b) :: rest else (key, old) :: Memory.store rest a b

/-- The bytes from an address up replaced, lowest first. -/
def Memory.storeBytes (m : Memory) (a : Nat) : List Byte → Memory
  | [] => m
  | b :: bs => Memory.storeBytes (m.store a b) (a + 1) bs

/-- The canonical form: addresses strictly rising, all inside the 2^64 byte addresses (R56). No entry can equal what
an unlisted address reads as, since that is nothing. -/
abbrev Memory.wf (m : Memory) : Prop :=
  (m.map Prod.fst).Pairwise (· < ·) ∧ ∀ c ∈ m, c.1 < 2 ^ 64

/-- Whether an external-memory address is one of the 128 bytes at which the platform shows the host window (R65). -/
def showsWindow (c : Config) (a : Nat) : Bool :=
  match c.windowView with
  | none => false
  | some base => base.toNat ≤ a && a < base.toNat + 128

/-- `Valid` excludes the window: "a buffer overlapping the window is outside this spec (the model's `Valid` should
exclude the window)" (R65). -/
abbrev Memory.excludesWindow (m : Memory) (c : Config) : Prop := ∀ cell ∈ m, showsWindow c cell.1 = false

/-- `raise Fault(c)`: fault entry, exactly the four writes of R141. -/
def State.raiseFault (s : State) (c : FaultCode) : State :=
  { s with fault := true, fcode := some c, busy := false, phase := .fault }

/-- `drop(CERR)`: the host access has no effect but the sticky mark (R144). -/
def State.dropAccess (s : State) : State := { s with cerr := true }

/-- Every register of the block at its reset value (R159). The parameters, external memory ("not affected by a reset
of the block") and what belongs to the agents outside are kept. -/
def State.resetBlock (s : State) : State :=
  { State.reset with cfg := s.cfg, mem := s.mem, schedule := s.schedule, replies := s.replies }

/-- `PHASE <- p` (R16). -/
def State.gotoPhase (s : State) (p : Phase) : State := { s with phase := p }

/-- `PHASE <- P_IDLE ; BUSY <- 0`, the end of a run (R134). -/
def State.endRun (s : State) : State := { s with phase := .idle, busy := false }

/-- The moves left after the next one has been taken. -/
def State.withSchedule (s : State) (ms : List Move) : State := { s with schedule := ms }

/-- A host read has returned `v` (R53). -/
def State.reply (s : State) (v : Word32) : State := { s with replies := v :: s.replies }

/-- An operation as a step: its writes, or the fault entry in the same step when one of its checks failed. An
operation "is never half-done" (R121, R141, R148). -/
def complete (s : State) (r : Except FaultCode State) : Host.Outcome State Fault Refusal :=
  match r with
  | .ok t => .next t
  | .error c => .next (s.raiseFault c)

end Sys2Proof.Machine
end

