-- ==== Sys2Proof/Machine/Operands.lean ====
section
/-! DEFINITION. The operands of the operations: effective addresses (20_memory.md R60), `MemRead` (R56 to R59) and
the reads of the constant table ROM (10_state.md R40). -/

namespace Sys2Proof.Machine

/-- The address SA reads: `PTR + 8*JA` (R60, R112). -/
def State.laneAAddr (s : State) : Addr := s.ptr + 8 * s.ja.setWidth 64

/-- The address SB and MRG read: `PTR + 8*N + 8*JB` (R60, R113, R117). -/
def State.laneBAddr (s : State) : Addr := s.ptr + 8 * s.n.setWidth 64 + 8 * s.jb.setWidth 64

/-- `16*N` as a 64-bit value: the bytes of the open block (R103, R118). -/
def State.blockBytes (s : State) : Word64 := 16 * s.n.setWidth 64

/-- `addr[2:0] = 0` (R59). -/
def aligned8 (a : Addr) : Bool := a.extractLsb' 0 3 == 0#3

/-- `MemRead(addr, 1)`: the byte, or a bus error (R56, R57, R58). -/
def memRead1 (m : Memory) (a : Addr) : Except FaultCode Byte :=
  match m.read a.toNat with
  | some b => .ok b
  | none => .error .bus

/-- `MemRead(addr, 8)`: the little-endian word, or a bus error (R56, R57, R58). At an address that is not a multiple
of 8 it is "never split and never performed: the operation raises `Fault(F_ALIGN)` before the read" (R59). -/
def memRead8 (m : Memory) (a : Addr) : Except FaultCode Word64 :=
  if aligned8 a then
    match m.readBytes a.toNat 8 with
    | some bs => .ok (wordOfBytes bs)
    | none => .error .bus
  else .error .align

/-- `ROM[i]` where `i < ROM_DEPTH`, else `Fault(F_ROM)` (R40, R98, R114, R115). -/
def romRead (c : Config) (i : Nat) : Except FaultCode Word32 :=
  if i < c.romDepth then .ok (tbl i) else .error .rom

/-- The block count FSET chooses: `min(REM >> 4, N_MAX)` (R111). -/
def State.blockCount (s : State) : BitVec 8 := BitVec.ofNat 8 (min (s.rem.toNat / 16) s.cfg.nMax)

/-- `BUF + zext_65(LEN) >= 2^64`, the sum taken as an integer (R106). -/
def State.outOfRange (s : State) : Bool := 2 ^ 64 ≤ s.buf.toNat + s.len.toNat

end Sys2Proof.Machine
end

