-- ==== Sys2Proof/Machine/Fold.lean ====
section
/-! DEFINITION. The fold operations of 42_fold_ops.md: FSET, SA, SB, LUT, LUTI, CLM, MRG, ADV. The counters are
compared as integers, so that `JB + 1` does not wrap (R103). -/

namespace Sys2Proof.Machine

/-- FSET (R111): open a fold iteration. -/
def execFset (s : State) : Host.Outcome State Fault Refusal :=
  complete s <|
    if s.n ≠ 0 then .error .seq
    else if s.rem.toNat < 16 then .error .under
    else if aligned8 s.ptr then .ok { s with n := s.blockCount, ja := 0, jb := 0, accb := 0 }
    else .error .align

/-- SA (R112): one lane-A native step. -/
def execSa (s : State) : Host.Outcome State Fault Refusal :=
  complete s <|
    if s.n = 0 ∨ s.n.toNat ≤ s.ja.toNat then .error .seq
    else match memRead8 s.mem s.laneAAddr with
      | .error c => .error c
      | .ok w => .ok { s with acca := step64 s.acca w, ja := s.ja + 1 }

/-- SB (R113): one lane-B native step; the lane's last word is left to MRG. -/
def execSb (s : State) : Host.Outcome State Fault Refusal :=
  complete s <|
    if s.n = 0 ∨ s.n.toNat ≤ s.jb.toNat + 1 then .error .seq
    else match memRead8 s.mem s.laneBAddr with
      | .error c => .error c
      | .ok w => .ok { s with accb := step64 s.accb w, jb := s.jb + 1 }

/-- LUT (R114): fetch the constant of the open fold. -/
def execLut (s : State) : Host.Outcome State Fault Refusal :=
  complete s <|
    if s.n = 0 then .error .seq
    else match romRead s.cfg (s.n.toNat - 1) with
      | .error c => .error c
      | .ok v => .ok { s with k := v }

/-- LUTI (R115): read any table entry. -/
def execLuti (index : Nat) (s : State) : Host.Outcome State Fault Refusal :=
  complete s <|
    match romRead s.cfg index with
    | .error c => .error c
    | .ok v => .ok { s with k := v }

/-- CLM (R116): the low 64 bits of the carryless product of K and lane A. -/
def execClm (s : State) : Host.Outcome State Fault Refusal :=
  .next { s with q := clmulLow (zext64 s.k) s.acca }

/-- MRG (R117): the merging step, lane B's accumulator over the product xored with lane B's last word. -/
def execMrg (s : State) : Host.Outcome State Fault Refusal :=
  complete s <|
    if s.n = 0 ∨ s.ja ≠ s.n ∨ s.jb.toNat ≠ s.n.toNat - 1 then .error .seq
    else match memRead8 s.mem s.laneBAddr with
      | .error c => .error c
      | .ok w => .ok { s with acca := step64 s.accb (s.q ^^^ w), jb := s.jb + 1 }

/-- ADV (R118): close the fold iteration. -/
def execAdv (s : State) : Host.Outcome State Fault Refusal :=
  complete s <|
    if s.n = 0 ∨ s.ja ≠ s.n ∨ s.jb ≠ s.n then .error .seq
    else .ok { s with
      ptr := s.ptr + s.blockBytes, rem := s.rem - s.blockBytes.setWidth 32, n := 0, ja := 0, jb := 0, accb := 0 }

end Sys2Proof.Machine
end

