-- ==== Sys2Proof/Machine/Serial.lean ====
section
/-! DEFINITION. The serial operations of 41_serial_ops.md: NOP, INIT, S8, S64, S8I, FIN. Each is its checks in the
order the spec lists them and then its writes, all from the state before the step. -/

namespace Sys2Proof.Machine

/-- NOP (R105): no state changes. -/
def execNop (s : State) : Host.Outcome State Fault Refusal := .next s

/-- INIT (R106): begin a computation from BUF, LEN and SEED. -/
def execInit (s : State) : Host.Outcome State Fault Refusal :=
  complete s <|
    if s.outOfRange then .error .range
    else .ok { s with
      acca := zext64 s.seed, accb := 0, ptr := s.buf, rem := s.len, n := 0, ja := 0, jb := 0, k := 0, q := 0,
      done := false }

/-- S8 (R107): one single-byte native step from the buffer. -/
def execS8 (s : State) : Host.Outcome State Fault Refusal :=
  complete s <|
    if s.n ≠ 0 then .error .seq
    else if s.rem = 0 then .error .under
    else match memRead1 s.mem s.ptr with
      | .error c => .error c
      | .ok b => .ok { s with acca := zext64 (step8 (lo32 s.acca) b), ptr := s.ptr + 1, rem := s.rem - 1 }

/-- S64 (R108): one 64-bit native step from the buffer. -/
def execS64 (s : State) : Host.Outcome State Fault Refusal :=
  complete s <|
    if s.n ≠ 0 then .error .seq
    else if s.rem.toNat < 8 then .error .under
    else if aligned8 s.ptr then
      match memRead8 s.mem s.ptr with
      | .error c => .error c
      | .ok w => .ok { s with acca := step64 s.acca w, ptr := s.ptr + 8, rem := s.rem - 8 }
    else .error .align

/-- S8I (R109): `step8` on an immediate byte. -/
def execS8I (byte : Byte) (s : State) : Host.Outcome State Fault Refusal :=
  .next { s with acca := zext64 (step8 (lo32 s.acca) byte) }

/-- FIN (R110): the accumulator truncated to 32 bits is the result. -/
def execFin (s : State) : Host.Outcome State Fault Refusal :=
  .next { s with result := lo32 s.acca, done := true }

end Sys2Proof.Machine
end

