-- ==== Sys2Proof/Machine/System.lean ====
section
/-! DEFINITION. The macro command CRC, which starts the sequencer, and the soft reset SRST (43_macro_system.md R122,
R138). -/

namespace Sys2Proof.Machine

/-- CRC (R122): acceptance starts the run; "the datapath is first touched by the INIT of phase P_INIT". -/
def execCrc (s : State) : Host.Outcome State Fault Refusal :=
  .next { s with busy := true, done := false, phase := .init }

/-- SRST (R138): every register of the block takes its reset value. -/
def execSrst (s : State) : Host.Outcome State Fault Refusal := .next s.resetBlock

end Sys2Proof.Machine
end

