-- ==== Sys2Proof/Machine/Dispatch.lean ====
section
/-! DEFINITION. `exec OP` of 00_scope.md R16: one arm per operation. -/

namespace Sys2Proof.Machine

def exec (i : Instr) (s : State) : Host.Outcome State Fault Refusal :=
  match i with
  | .nop => Sys2Proof.Machine.execNop s
  | .init => Sys2Proof.Machine.execInit s
  | .s8 => Sys2Proof.Machine.execS8 s
  | .s64 => Sys2Proof.Machine.execS64 s
  | .s8i byte => Sys2Proof.Machine.execS8I byte s
  | .fin => Sys2Proof.Machine.execFin s
  | .fset => Sys2Proof.Machine.execFset s
  | .sa => Sys2Proof.Machine.execSa s
  | .sb => Sys2Proof.Machine.execSb s
  | .lut => Sys2Proof.Machine.execLut s
  | .luti index => Sys2Proof.Machine.execLuti index s
  | .clm => Sys2Proof.Machine.execClm s
  | .mrg => Sys2Proof.Machine.execMrg s
  | .adv => Sys2Proof.Machine.execAdv s
  | .crc => Sys2Proof.Machine.execCrc s
  | .srst => Sys2Proof.Machine.execSrst s

end Sys2Proof.Machine
end

