-- ==== Sys2Proof/Machine/Flags.lean ====
section
/-! DEFINITION. The status flags and the words that show them: the phase codes (10_state.md R34), the fault codes
(60_exceptions.md R142), STATUS (R43), FOLD_V (R51), and the sequencer's predicates (R39). "The datapath has no
condition codes: no operation sets a flag from a result" (10_state.md section 3). -/

namespace Sys2Proof.Machine

/-- The code of a phase, the value STATUS shows (R34). -/
def Phase.code (p : Phase) : BitVec 4 :=
  match p with
  | .idle => 0
  | .init => 1
  | .align => 2
  | .bulk => 3
  | .lanes => 4
  | .lut => 5
  | .clm => 6
  | .mrg => 7
  | .adv => 8
  | .wtail => 9
  | .btail => 10
  | .fin => 11
  | .fault => 15

/-- The code of a fault cause (R142). -/
def FaultCode.code (c : FaultCode) : BitVec 4 :=
  match c with
  | .bus => 1
  | .align => 2
  | .under => 3
  | .rom => 4
  | .seq => 5
  | .range => 6

/-- The 4-bit register FCODE: 0 when there is no fault (R37, R142). -/
def State.fcodeBits (s : State) : BitVec 4 :=
  match s.fcode with
  | some c => c.code
  | none => 0

/-- STATUS, from its top field down: zeros, PHASE, FCODE, CERR, FAULT, DONE, BUSY (R43). -/
def State.statusWord (s : State) : Word32 :=
  0#20 ++ s.phase.code ++ s.fcodeBits ++ BitVec.ofBool s.cerr ++ BitVec.ofBool s.fault ++ BitVec.ofBool s.done ++
    BitVec.ofBool s.busy

/-- FOLD_V, from its top field down: zeros, JB, JA, N (R51). -/
def State.foldWord (s : State) : Word32 := 0#8 ++ s.jb ++ s.ja ++ s.n

/-- `unaligned` (R39). -/
def State.unaligned (s : State) : Bool := !aligned8 s.ptr

/-- `more` (R39). -/
def State.more (s : State) : Bool := s.rem != 0

/-- `bulk` (R39). -/
def State.bulk (s : State) : Bool := s.cfg.leafBytes ≤ s.rem.toNat

/-- `word` (R39). -/
def State.word (s : State) : Bool := 8 ≤ s.rem.toNat

/-- `a_turn` (R39). -/
def State.aTurn (s : State) : Bool := s.ja.toNat ≤ s.jb.toNat && s.ja.toNat < s.n.toNat

/-- `b_turn`, the sum taken as an integer (R39). -/
def State.bTurn (s : State) : Bool := s.jb.toNat + 1 < s.n.toNat

end Sys2Proof.Machine
end

