-- ==== Sys2Proof/Machine/HostPort.lean ====
section
/-! DEFINITION. The host window of 10_state.md R41 to R54: where its registers are, host reads, host writes, and the
acceptance of a command word (43_macro_system.md R120, R121). -/

namespace Sys2Proof.Machine

/-- The registers of the window in the order of their offsets, four bytes each, from 0x00 to 0x40 (R41). -/
def windowRegs : List HostReg :=
  [.cmd, .status, .bufLo, .bufHi, .len, .seed, .result, .id, .accaV, .accbV, .kV, .qLo, .qHi, .ptrLo, .ptrHi, .remV,
    .foldV]

/-- The register at an offset, if one is mapped there: "Offsets 0x44 to 0x7C are unmapped" (R41). -/
def regAt (off : Offset) : Option HostReg := windowRegs[off.val]?

/-- The offset of CMD, 0x00 (R42). -/
def cmdOffset : Offset := 0

/-- The bus address of an offset of the window: `WINDOW_BASE + 4 * off` (R13, R41). -/
def busAddress (off : Offset) : Addr := Config.windowBase + 4 * BitVec.ofNat 64 off.val

/-- The offset a 32-bit bus access reaches, if it is a transaction of this block: inside the 128-byte window and at a
multiple of 4 (R41, R54). -/
def offsetOfBus (a : Addr) : Option Offset :=
  if (a - Config.windowBase).toNat < 128 ∧ (a - Config.windowBase).toNat % 4 = 0 then
    some (Fin.ofNat 32 ((a - Config.windowBase).toNat / 4))
  else none

/-- `ID` reads this constant, "CRC2" (R48). -/
def idConstant : Word32 := 0x43524332#32

/-- `HostRead`: the value the register at an offset returns, 0 where none is mapped (R53; each register R42 to R51). -/
def hostReadValue (s : State) (off : Offset) : Word32 :=
  match regAt off with
  | some .cmd => 0
  | some .status => s.statusWord
  | some .bufLo => lo32 s.buf
  | some .bufHi => hi32 s.buf
  | some .len => s.len
  | some .seed => s.seed
  | some .result => s.result
  | some .id => idConstant
  | some .accaV => lo32 s.acca
  | some .accbV => lo32 s.accb
  | some .kV => s.k
  | some .qLo => lo32 s.q
  | some .qHi => hi32 s.q
  | some .ptrLo => lo32 s.ptr
  | some .ptrHi => hi32 s.ptr
  | some .remV => s.rem
  | some .foldV => s.foldWord
  | none => 0

/-- A host read returns its value and "has no side effect on any state" of the block (R53). -/
def hostRead (s : State) (off : Offset) : Host.Outcome State Fault Refusal := .next (s.reply (hostReadValue s off))

/-- A write to an operand register: performed, or dropped while BUSY = 1 (R52). -/
def operandWrite (s written : State) : Host.Outcome State Fault Refusal :=
  .next (if s.busy then s.dropAccess else written)

/-- Acceptance of a command word, its tests in the order of R120. -/
def command (w : Word32) (s : State) : Host.Outcome State Fault Refusal :=
  match decode w with
  | .error _ => .next s.dropAccess
  | .ok i =>
    if s.busy then .next s.dropAccess
    else if s.fault ∧ i ≠ .srst then .next s.dropAccess
    else exec i s

/-- `HostWrite` (R52): a command, an operand register, or a dropped access. -/
def hostWrite (s : State) (off : Offset) (v : Word32) : Host.Outcome State Fault Refusal :=
  match regAt off with
  | some .cmd => command v s
  | some .bufLo => operandWrite s { s with buf := hi32 s.buf ++ v }
  | some .bufHi => operandWrite s { s with buf := v ++ lo32 s.buf }
  | some .len => operandWrite s { s with len := v }
  | some .seed => operandWrite s { s with seed := v }
  | some .status | some .result | some .id | some .accaV | some .accbV | some .kV | some .qLo | some .qHi
  | some .ptrLo | some .ptrHi | some .remV | some .foldV | none => .next s.dropAccess

end Sys2Proof.Machine
end

