-- ==== Sys2Proof/Machine/Sequencer.lean ====
section
/-! DEFINITION. The sequencer of 43_macro_system.md R123 to R134: what the engine does in each phase, and its step. -/

namespace Sys2Proof.Machine

/-- The two things a sequencer step can do, and nothing (R123). -/
inductive SeqAction where
  /-- `exec op ; PHASE <- p`. -/
  | issue (op : Instr) (p : Phase)
  /-- `PHASE <- p`, a phase transition with no datapath effect. -/
  | goto (p : Phase)
  /-- `exec FIN ; PHASE <- P_IDLE ; BUSY <- 0` (R134). -/
  | finish
  /-- No operation and no transition: P_IDLE and P_FAULT issue none (R34). -/
  | rest
  deriving DecidableEq, Repr

/-- The action of the present phase, from the predicates of R39 (R124 to R134). -/
def seqAction (s : State) : SeqAction :=
  match s.phase with
  | .idle => .rest
  | .init => .issue .init .align
  | .align => if s.unaligned && s.more then .issue .s8 .align else .goto .bulk
  | .bulk => if s.bulk then .issue .fset .lanes else .goto .wtail
  | .lanes => if s.aTurn then .issue .sa .lanes else if s.bTurn then .issue .sb .lanes else .goto .lut
  | .lut => .issue .lut .clm
  | .clm => .issue .clm .mrg
  | .mrg => .issue .mrg .adv
  | .adv => .issue .adv .bulk
  | .wtail => if s.word then .issue .s64 .wtail else .goto .btail
  | .btail => if s.more then .issue .s8 .btail else .goto .fin
  | .fin => .finish
  | .fault => .rest

/-- An operation the sequencer issues, and the phase after it. "If the operation faults, its rule's writes and the
phase change do not happen" (R123): the sequencer runs with BUSY = 1, which of its operations only a fault entry
clears (R141). -/
def issueThen (op : Instr) (after : State → State) (s : State) : Host.Outcome State Fault Refusal :=
  match exec op s with
  | .next t => .next (if t.busy then after t else t)
  | .fault r => .fault r
  | .refused r => .refused r

/-- A sequencer step in a busy state (R123). -/
def seqStep (s : State) : Host.Outcome State Fault Refusal :=
  match seqAction s with
  | .issue op p => issueThen op (fun t => t.gotoPhase p) s
  | .goto p => .next (s.gotoPhase p)
  | .finish => issueThen .fin State.endRun s
  | .rest => .next s

/-- The engine's move: "The engine has a step exactly when BUSY = 1" (R123), and is idle or stopped otherwise. -/
def engineStep (s : State) : Host.Outcome State Fault Refusal :=
  if s.busy then seqStep s else .next s

end Sys2Proof.Machine
end

