-- ==== Sys2Proof/Machine/Agents.lean ====
section
/-! DEFINITION. One move of one agent (00_scope.md R12, 20_memory.md R67): the engine, the host, another writer of
external memory, or the hardware reset. -/

namespace Sys2Proof.Machine

/-- The state after a move. -/
def takeMove (m : Move) (s : State) : Host.Outcome State Fault Refusal :=
  match m with
  | .hostWrite off v => hostWrite s off v
  | .hostRead off => hostRead s off
  | .engine => engineStep s
  | .memWrite addr bytes => .next { s with mem := s.mem.storeBytes addr.toNat bytes }
  | .hwReset => .next s.resetBlock

/-- The next move is the schedule's, and the engine's when the schedule is empty: with no move of another agent left,
a busy engine steps (R168). -/
def nextMove (s : State) : Move × State :=
  match s.schedule with
  | [] => (.engine, s)
  | m :: ms => (m, s.withSchedule ms)

/-- A command word put where the next step takes it from: a write to CMD at the head of the schedule (R42, R73). -/
def State.withCommand (s : State) (w : Word32) : State := s.withSchedule (.hostWrite cmdOffset w :: s.schedule)

end Sys2Proof.Machine
end

