-- ==== Sys2Proof/Machine/Step.lean ====
section
/-! DEFINITION. One step of the machine: exactly one agent moves (00_scope.md R12, 60_exceptions.md R150). -/

namespace Sys2Proof.Machine

/-- One step: the next move is taken. -/
def step (s : State) : Host.Outcome State Fault Refusal := takeMove (nextMove s).1 (nextMove s).2

/-- `s` with a command word as the very next move; a command word is 32 bits (R73). -/
def State.withFetchWord (s : State) (nbits w : Nat) : State := s.withCommand (BitVec.ofNat 32 (w % 2 ^ nbits))

end Sys2Proof.Machine
end

