-- ==== Sys2Proof/Machine/RomListing.lean ====
section
/-! DEFINITION. The listing of the constant table ROM (45_rom_table.md R140). The machine generates the table from R98
(`tbl`) and does not use this listing; a claim says the two are one. -/

namespace Sys2Proof.Machine

/-- Entries 0 to 63 of R140, eight a line. -/
def romListing0 : List Word32 :=
  [0x00000001#32, 0x493C7D27#32, 0xF20C0DFE#32, 0xBA4FC28E#32, 0x3DA6D0CB#32, 0xDDC0152B#32, 0x1C291D04#32, 0x9E4ADDF8#32] ++
  [0x740EEF02#32, 0x39D3B296#32, 0x083A6EEC#32, 0x0715CE53#32, 0xC49F4F67#32, 0x47DB8317#32, 0x2AD91C30#32, 0x0D3B6092#32] ++
  [0x6992CEA2#32, 0xC96CFDC0#32, 0x7E908048#32, 0x878A92A7#32, 0x1B3D8F29#32, 0xDAECE73E#32, 0xF1D0F55E#32, 0xAB7AFF2A#32] ++
  [0xA87AB8A8#32, 0x2162D385#32, 0x8462D800#32, 0x83348832#32, 0x71D111A8#32, 0x299847D5#32, 0xFFD852C6#32, 0xB9E02B86#32] ++
  [0xDCB17AA4#32, 0x18B33A4E#32, 0xF37C5AEE#32, 0xB6DD949B#32, 0x6051D5A2#32, 0x78D9CCB7#32, 0x18B0D4FF#32, 0xBAC2FD7B#32] ++
  [0x21F3D99C#32, 0xA60CE07B#32, 0x8F158014#32, 0xCE7F39F4#32, 0xA00457F7#32, 0x61D82E56#32, 0x8D6D2C43#32, 0xD270F1A2#32] ++
  [0x00AC29CF#32, 0xC619809D#32, 0xE9ADF796#32, 0x2B3CAC5D#32, 0x96638B34#32, 0x65863B64#32, 0xE0E9F351#32, 0x1B03397F#32] ++
  [0x9AF01F2D#32, 0xEBB883BD#32, 0x2CFF42CF#32, 0xB3E32C28#32, 0x88F25A3A#32, 0x064F7F26#32, 0x4E36F0B0#32, 0xDD7E3B0C#32]

/-- Entries 64 to 127 of R140, eight a line. -/
def romListing1 : List Word32 :=
  [0xBD6F81F8#32, 0xF285651C#32, 0x91C9BD4B#32, 0x10746F3C#32, 0x885F087B#32, 0xC7A68855#32, 0x4C144932#32, 0x271D9844#32] ++
  [0x52148F02#32, 0x8E766A0C#32, 0xA3C6F37A#32, 0x93A5F730#32, 0xD7C0557F#32, 0x6CB08E5C#32, 0x63DED06A#32, 0x6B749FB2#32] ++
  [0x4D56973C#32, 0x1393E203#32, 0x9669C9DF#32, 0xCEC3662E#32, 0xE417F38A#32, 0x96C515BB#32, 0x4B9E0F71#32, 0xE6FC4E6A#32] ++
  [0xD104B8FC#32, 0x8227BB8A#32, 0x5B397730#32, 0xB0CD4768#32, 0xE78EB416#32, 0x39C7FF35#32, 0x61FF0E01#32, 0xD7A4825C#32] ++
  [0x8D96551C#32, 0x0AB3844B#32, 0x0BF80DD2#32, 0x0167D312#32, 0x8821ABED#32, 0xF6076544#32, 0x6A45D2B2#32, 0x26F6A60A#32] ++
  [0xD8D26619#32, 0xA741C1BF#32, 0xDE87806C#32, 0x98D8D9CB#32, 0x14338754#32, 0x49C3CC9C#32, 0x5BD2011F#32, 0x68BCE87A#32] ++
  [0xDD07448E#32, 0x57A3D037#32, 0xDDE8F5B9#32, 0x6956FC3B#32, 0xA3E3E02C#32, 0x42D98888#32, 0xD73C7BEA#32, 0x3771E98F#32] ++
  [0x80FF0093#32, 0xB42AE3D9#32, 0x8FE4C34D#32, 0x2178513A#32, 0xDF99FC11#32, 0xE0AC139E#32, 0x6C23E841#32, 0x170076FA#32]

/-- Entries 128 to 191 of R140, eight a line. -/
def romListing2 : List Word32 :=
  [0xFE314258#32, 0x444DD413#32, 0x0D8373A0#32, 0x6F345E45#32, 0x19E3635E#32, 0x41D17B64#32, 0x29F268B4#32, 0xFF0DBA97#32] ++
  [0x1DC0632A#32, 0xA2B73DF1#32, 0x1614F396#32, 0xF872E54C#32, 0x9E2993D3#32, 0x1E41E9FC#32, 0x6BEBD73C#32, 0x86D8E4D2#32] ++
  [0x63AE91E6#32, 0x651BD98B#32, 0xF8C9DA7A#32, 0x5BB8F1BC#32, 0x945A19C1#32, 0xA90FD27A#32, 0xEE8213B7#32, 0xB3AF077A#32] ++
  [0x93781DC7#32, 0x4984D782#32, 0xCCC4A1B9#32, 0xCA6EF3AC#32, 0xA2C2D971#32, 0x234E0B26#32, 0x1CAD4452#32, 0xDD66CBBB#32] ++
  [0x74922601#32, 0x4597456A#32, 0xC55F7EAB#32, 0xE9E28EB4#32, 0xA1962329#32, 0x7B3FF57A#32, 0x2D370749#32, 0xC9C8B782#32] ++
  [0x397D84A1#32, 0x3F70CC6F#32, 0x79113270#32, 0x93E106A4#32, 0xBC817803#32, 0x62EC6C6D#32, 0x88EB3C07#32, 0xD813B325#32] ++
  [0x6E4CB630#32, 0x0DF04680#32, 0x71971D5C#32, 0x2342001E#32, 0xF33B8BC6#32, 0x0A2A8D7E#32, 0x9FB3BBC0#32, 0x6D9A4957#32] ++
  [0x6EF22B23#32, 0xE8B6368B#32, 0xCE2DF768#32, 0xD2C3ED1A#32, 0xE53A4FC7#32, 0x995A5724#32, 0xBE60A91A#32, 0x9EF68D35#32]

/-- Entries 192 to 255 of R140, eight a line. -/
def romListing3 : List Word32 :=
  [0x1DFA0A15#32, 0x0C139B31#32, 0x8EC52396#32, 0xF2271E60#32, 0x0E766B11#32, 0x0B0BF8CA#32, 0x475846A4#32, 0x2664FD8B#32] ++
  [0xB2A3DFA6#32, 0xED64812D#32, 0xDC1A160C#32, 0x02EE03B2#32, 0x79AFDF1C#32, 0x8604AE0F#32, 0x07AC6E46#32, 0x363BD6B3#32] ++
  [0x15F85253#32, 0x135C83FD#32, 0x1BEC24DD#32, 0x5FABE670#32, 0x4C36CD5B#32, 0x35EC3279#32, 0xE0A22E29#32, 0x00BCF5F6#32] ++
  [0x7C2B6ED9#32, 0x8AE00689#32, 0x06FF88FD#32, 0x17F27698#32, 0xF7317CF0#32, 0x58CA5F00#32, 0x61B6E40B#32, 0xAA7C7AD5#32] ++
  [0xDE8A97F8#32, 0xB5CFCA28#32, 0x88F61445#32, 0xDED288F8#32, 0xD4520E9E#32, 0x59F229BC#32, 0x0C592BD5#32, 0x6D390DEC#32] ++
  [0x38EDFAF3#32, 0x37170390#32, 0x72CBFCDB#32, 0x6353C1CC#32, 0x348331A5#32, 0xC4584F5C#32, 0xC3977C19#32, 0xF48642E9#32] ++
  [0xDAFAEA7C#32, 0x531377E2#32, 0x73DB4C04#32, 0xDD35BC8D#32, 0x72675CE8#32, 0xB25B29F2#32, 0x3EC2FF83#32, 0x9A5EDE41#32] ++
  [0xE8C7A017#32, 0xA563905D#32, 0xCF4BFAEF#32, 0x45CDDF4E#32, 0x6BDE1AC7#32, 0xACFA3103#32, 0xAE1175C2#32, 0xA51B6135#32]

/-- All 256 entries of R140. -/
def romListing : List Word32 := romListing0 ++ romListing1 ++ romListing2 ++ romListing3

end Sys2Proof.Machine
end

