-- ==== Sys2Proof/Poly.lean ====
section
/-! DEFINITION. The polynomial notation of 00_scope.md R17, in which claims about the datapath functions are stated.
The machine itself does not use it. -/

open scoped Polynomial

namespace Sys2Proof.Poly

/-- `poly32(v)`: bit `i` is the coefficient of `x^(31-i)` (R17). -/
noncomputable def poly32 (v : Word32) : (ZMod 2)[X] :=
  ∑ i ∈ Finset.range 32, if v.getLsbD i then Polynomial.X ^ (31 - i) else 0

/-- `poly64(w)`: bit `i` is the coefficient of `x^(63-i)` (R17). -/
noncomputable def poly64 (w : Word64) : (ZMod 2)[X] :=
  ∑ i ∈ Finset.range 64, if w.getLsbD i then Polynomial.X ^ (63 - i) else 0

/-- `P(x) = x^32 + poly32(P)` (R17). -/
noncomputable def generator : (ZMod 2)[X] := Polynomial.X ^ 32 + poly32 Config.poly

end Sys2Proof.Poly
end

