-- ==== Sys2Proof/Safety.lean ====
section
/-! DEFINITION. What counts as a safe run: the invariant of the machine (10_state.md R20 to R27, R43; 40_functions.md
R96; 43_macro_system.md R125 to R133), and the terms claims about runs use. -/

namespace Sys2Proof.Machine

/-- The last byte the operations may read lies below this integer: `PTR + REM` (R24). -/
def State.extentEnd (s : State) : Nat := s.ptr.toNat + s.rem.toNat

/-- What the registers hold in each phase of a run (R125 to R133). In P_INIT the previous computation's registers
still stand. P_IDLE and P_FAULT are no phases of a run. -/
def State.phaseInv (s : State) : Prop :=
  match s.phase with
  | .idle | .fault => False
  | .init => True
  | .align => s.n = 0
  | .bulk => s.n = 0 ∧ (s.rem = 0 ∨ s.ptr.toNat % 8 = 0)
  | .lanes =>
    s.n ≠ 0 ∧ s.jb.toNat + 1 ≤ s.n.toNat ∧ (s.ja.toNat = s.jb.toNat ∨ s.ja.toNat = s.jb.toNat + 1)
  | .lut | .clm | .mrg => s.n ≠ 0 ∧ s.ja = s.n ∧ s.jb.toNat + 1 = s.n.toNat
  | .adv => s.n ≠ 0 ∧ s.ja = s.n ∧ s.jb = s.n
  | .wtail => s.n = 0 ∧ (s.rem = 0 ∨ s.ptr.toNat % 8 = 0) ∧ s.rem.toNat < s.cfg.leafBytes
  | .btail => s.n = 0 ∧ s.rem.toNat < 8
  | .fin => s.n = 0 ∧ s.rem = 0

/-- The invariant of the machine. -/
structure State.Inv (s : State) : Prop where
  /-- The parameters are legal (R7, R8, R9). -/
  cfgLegal : s.cfg.Legal
  /-- External memory is in its canonical form. -/
  memWf : s.mem.wf
  /-- `ACCA[63:32] = 0` (R21). -/
  accaHigh : s.acca.toNat < 2 ^ 32
  /-- `ACCB[63:32] = 0` (R21). -/
  accbHigh : s.accb.toNat < 2 ^ 32
  /-- Lane B's accumulator "is zero outside an open fold" (R20). -/
  accbClosed : s.n = 0 → s.accb = 0
  /-- `Q[63] = 0` (R96). -/
  qHigh : s.q.toNat < 2 ^ 63
  /-- `N` is in 0..N_MAX (R25). -/
  nMax : s.n.toNat ≤ s.cfg.nMax
  /-- `JA <= N` (R26). -/
  jaMax : s.ja.toNat ≤ s.n.toNat
  /-- `JB <= N` (R27). -/
  jbMax : s.jb.toNat ≤ s.n.toNat
  /-- `PTR + REM < 2^64` (R24, R106). -/
  extent : s.extentEnd < 2 ^ 64
  /-- The open block is inside the remaining bytes: `16*N <= REM` (R111). -/
  blockFits : 16 * s.n.toNat ≤ s.rem.toNat
  /-- PTR is a multiple of 8 while a fold is open (R112). -/
  foldAligned : s.n ≠ 0 → s.ptr.toNat % 8 = 0
  /-- "BUSY = 1 implies FAULT = 0, DONE = 0 and PHASE in 1..11" (R43), and what the phase says. -/
  busyRun : s.busy = true → s.fault = false ∧ s.done = false ∧ s.phaseInv
  /-- "FAULT = 1 implies BUSY = 0 and PHASE = 15" (R43). -/
  faultStop : s.fault = true → s.busy = false ∧ s.phase = .fault
  /-- "BUSY = 0 and FAULT = 0 implies PHASE = 0" (R43). -/
  idleRest : s.busy = false → s.fault = false → s.phase = .idle
  /-- FCODE "is 0 while FAULT = 0" (R37) and a cause while FAULT = 1 (R142). -/
  fcodeSet : s.fcode.isSome = s.fault
  /-- No byte of the host window is valid external memory (R65). -/
  windowExcluded : s.mem.excludesWindow s.cfg

/-- The operations of a list performed one after the other, as single operations are (R83, R121). -/
def execAll : List Instr → State → Host.Outcome State Fault Refusal
  | [], s => .next s
  | i :: rest, s =>
    match exec i s with
    | .next t => execAll rest t
    | .fault r => .fault r
    | .refused r => .refused r

/-- The fault causes R142 lists for each operation. -/
def faultCauses (i : Instr) : List FaultCode :=
  match i with
  | .nop | .s8i _ | .fin | .clm | .crc | .srst => []
  | .init => [.range]
  | .s8 => [.seq, .under, .bus]
  | .s64 => [.seq, .under, .align, .bus]
  | .fset => [.seq, .under, .align]
  | .sa | .sb | .mrg => [.seq, .bus]
  | .lut => [.seq, .rom]
  | .luti _ => [.rom]
  | .adv => [.seq]

/-- The engine moves next, in the state `u`, and `op` followed by phase `p` is what the step does: the step performs
`op`, and sets the phase unless `op` faulted, a fault entry being what clears BUSY in a busy engine (R123, R141). -/
def State.StepIssues (s u : State) (op : Instr) (p : Phase) : Prop :=
  ∀ t, exec op u = .next t → step s = .next (if t.busy then { t with phase := p } else t)

/-- The bytes `[BUF, BUF + LEN)`, if all of them are valid. -/
def State.bufferBytes (s : State) : Option (List Byte) := s.mem.readBytes s.buf.toNat s.len.toNat

/-- The bytes `[BUF, PTR)`, which a run has consumed, if all of them are valid. -/
def State.consumedBytes (s : State) : Option (List Byte) :=
  s.mem.readBytes s.buf.toNat (s.ptr.toNat - s.buf.toNat)

/-- The `count` words from an address up, if all their bytes are valid: the words of a lane, in the order its steps take
them (R68). -/
def readWords (m : Memory) (a : Nat) : Nat → Option (List Word64)
  | 0 => some []
  | count + 1 =>
    match m.readBytes a 8, readWords m (a + 8) count with
    | some bs, some ws => some (wordOfBytes bs :: ws)
    | _, _ => none

/-- The words of lane A that SA has taken in the open fold (R112). -/
def State.laneAWords (s : State) : Option (List Word64) := readWords s.mem s.ptr.toNat s.ja.toNat

/-- The words of lane B that SB and MRG have taken in the open fold (R113, R117). -/
def State.laneBWords (s : State) : Option (List Word64) := readWords s.mem (s.ptr.toNat + 8 * s.n.toNat) s.jb.toNat

/-- The supporting invariant of R135, over the run's own registers and memory, from its INIT on: outside a fold,
`ACCA` is the CRC of the bytes consumed; inside one, the accumulators are the chains of the lanes' words, and after MRG
`ACCA` is the chain of all words of the block. BUF, LEN and SEED cannot change during a run (R52). -/
structure State.RunInv (s : State) : Prop where
  /-- PTR has not gone below BUF. -/
  start : s.buf.toNat ≤ s.ptr.toNat
  /-- `PTR + REM = BUF + LEN` (R24). -/
  extent : s.extentEnd = s.buf.toNat + s.len.toNat
  /-- `ACCA[31:0] = crc_serial(SEED, bytes of [BUF, PTR))` with no open fold (R135). -/
  serial : s.n = 0 → ∃ bytes, s.consumedBytes = some bytes ∧ s.acca = zext64 (crcSerial s.seed bytes)
  /-- The lanes of an open fold, before MRG and after it (R102, R119). -/
  lanes : s.n ≠ 0 → ∃ bytes as bs, s.consumedBytes = some bytes ∧ s.laneAWords = some as ∧ s.laneBWords = some bs ∧
    if s.jb = s.n then s.acca = chain64 (zext64 (crcSerial s.seed bytes)) (as ++ bs)
    else s.acca = chain64 (zext64 (crcSerial s.seed bytes)) as ∧ s.accb = chain64 0 bs
  /-- K is the fold's constant from LUT to MRG (R114). -/
  constant : s.phase = .clm ∨ s.phase = .mrg → s.k = tbl (s.n.toNat - 1)
  /-- Q is its product with lane A from CLM to MRG (R116). -/
  product : s.phase = .mrg → s.q = clmulLow (zext64 s.k) s.acca

/-- The address and the width of the next read a run makes from its registers (R60, R68): outside a fold a word at PTR
where S64 can take one, else a byte; inside one lane A's word where it is lane A's turn (R127), else lane B's. -/
def State.nextRead (s : State) : Nat × Nat :=
  if s.n = 0 then (s.ptr.toNat, if s.ptr.toNat % 8 = 0 ∧ 8 ≤ s.rem.toNat then 8 else 1)
  else if s.ja.toNat ≤ s.jb.toNat ∧ s.ja.toNat < s.n.toNat then (s.ptr.toNat + 8 * s.ja.toNat, 8)
  else (s.ptr.toNat + 8 * s.n.toNat + 8 * s.jb.toNat, 8)

end Sys2Proof.Machine
end

