-- ==== Sys2Proof/Certificates/Slice0/Obligations.lean ====
section
/-! DEFINITION. The statements for the provers. -/

open Sys2Proof Sys2Proof.Machine

/-! ## Command words -/

/-- Every operation's word decodes to it, with every operand at every value the encoding admits. -/
def Obligations.DecodeOfEncode : Prop := ∀ i : Instr, i.WellFormed → decode (encode i) = .ok i

/-- A word that decodes is the one word of a well-formed operation. -/
def Obligations.EncodeOfDecode : Prop := ∀ (w : Word32) (i : Instr), decode w = .ok i → i.WellFormed ∧ encode i = w

/-- R77 (with R76 for `imm8`): each row of the opcode map is selected by its match and mask. -/
def Obligations.DecodeMatchesOpcodeMap : Prop := ∀ w : Word32,
  (decode w = .ok .nop ↔ w &&& 0xFFFFFFFF#32 = 0x00000000#32) ∧
  (decode w = .ok .init ↔ w &&& 0xFFFFFFFF#32 = 0x00000001#32) ∧
  (decode w = .ok .s8 ↔ w &&& 0xFFFFFFFF#32 = 0x00000002#32) ∧
  (decode w = .ok .s64 ↔ w &&& 0xFFFFFFFF#32 = 0x00000003#32) ∧
  (∀ byte, decode w = .ok (.s8i byte) ↔ w &&& 0xFFFF00FF#32 = 0x00000004#32 ∧ byte = w.extractLsb' 8 8) ∧
  (decode w = .ok .fin ↔ w &&& 0xFFFFFFFF#32 = 0x00000005#32) ∧
  (decode w = .ok .fset ↔ w &&& 0xFFFFFFFF#32 = 0x00000008#32) ∧
  (decode w = .ok .sa ↔ w &&& 0xFFFFFFFF#32 = 0x00000009#32) ∧
  (decode w = .ok .sb ↔ w &&& 0xFFFFFFFF#32 = 0x0000000A#32) ∧
  (decode w = .ok .lut ↔ w &&& 0xFFFFFFFF#32 = 0x0000000B#32) ∧
  (∀ index, decode w = .ok (.luti index) ↔
    w &&& 0xFFFF00FF#32 = 0x0000000C#32 ∧ index = (w.extractLsb' 8 8).toNat) ∧
  (decode w = .ok .clm ↔ w &&& 0xFFFFFFFF#32 = 0x0000000D#32) ∧
  (decode w = .ok .mrg ↔ w &&& 0xFFFFFFFF#32 = 0x0000000E#32) ∧
  (decode w = .ok .adv ↔ w &&& 0xFFFFFFFF#32 = 0x0000000F#32) ∧
  (decode w = .ok .crc ↔ w &&& 0xFFFFFFFF#32 = 0x00000010#32) ∧
  (decode w = .ok .srst ↔ w &&& 0xFFFFFFFF#32 = 0x0000001F#32)

/-- R79 and R80: a reserved opcode, or a known one with a non-zero must-be-zero field, is ILLEGAL. -/
def Obligations.ReservedAndPaddedWordsAreIllegal : Prop := ∀ (w : Word32) (op : Nat), op = (w.extractLsb' 0 8).toNat →
  ((op = 0x06 ∨ op = 0x07 ∨ (0x11 ≤ op ∧ op ≤ 0x1E) ∨ (0x20 ≤ op ∧ op ≤ 0xFF)) →
    decode w = .error .reservedOpcode) ∧
  ((op ≤ 0x03 ∨ op = 0x05 ∨ (0x08 ≤ op ∧ op ≤ 0x0B) ∨ (0x0D ≤ op ∧ op ≤ 0x10) ∨ op = 0x1F) →
    w.extractLsb' 8 24 ≠ 0#24 → decode w = .error .fieldNotZero) ∧
  ((op = 0x04 ∨ op = 0x0C) → w.extractLsb' 16 16 ≠ 0#16 → decode w = .error .fieldNotZero)

/-- Words written out from R74, R75 and R77 decode to the operations they stand for. -/
def Obligations.WrittenOutWordsDecode : Prop :=
  decode 0b00000000000000000000000000000000#32 = .ok .nop ∧
  decode 0b00000000000000000000000000000011#32 = .ok .s64 ∧
  decode 0b00000000000000001111111100000100#32 = .ok (.s8i 0xFF#8) ∧
  decode 0b00000000000000000000001100001100#32 = .ok (.luti 3) ∧
  decode 0b00000000000000000000000000001110#32 = .ok .mrg ∧
  decode 0b00000000000000000000000000010000#32 = .ok .crc ∧
  decode 0b00000000000000000000000000011111#32 = .ok .srst

/-! ## A step and the host window -/

/-- R120: a host write of `w` to CMD, its tests in their order. -/
def Obligations.CommandWordsAreAccepted : Prop := ∀ (s : State) (w : Word32) (ms : List Move),
  s.schedule = .hostWrite cmdOffset w :: ms →
  (∀ e, decode w = .error e → step s = .next { s with schedule := ms, cerr := true }) ∧
  (∀ i, decode w = .ok i → s.busy = true → step s = .next { s with schedule := ms, cerr := true }) ∧
  (∀ i, decode w = .ok i → s.busy = false → s.fault = true → i ≠ .srst →
    step s = .next { s with schedule := ms, cerr := true }) ∧
  (∀ i, decode w = .ok i → s.busy = false → (s.fault = false ∨ i = .srst) →
    step s = exec i { s with schedule := ms })

/-- A step runs the decoded instruction: a word placed where the next step takes its command from runs in that step,
whole, in an idle block (R121), and `exec` always answers a next state. -/
def Obligations.StepRunsTheDecodedWord : Prop := ∀ (s : State) (w : Word32) (i : Instr),
  decode w = .ok i → s.busy = false → s.fault = false →
  decodeTableWord 32 w.toNat = some i ∧ step (s.withFetchWord 32 w.toNat) = exec i s ∧ ∃ t, exec i s = .next t

/-- R52: the registers a host write reaches, and the writes that are dropped. -/
def Obligations.HostWritesReachTheOperandRegisters : Prop :=
  ∀ (s u : State) (off : Offset) (v : Word32) (ms : List Move),
  s.schedule = .hostWrite off v :: ms → u = { s with schedule := ms } →
  (off.val = 0 → step s = command v u) ∧
  (off.val = 2 → s.busy = false → step s = .next { u with buf := s.buf.extractLsb' 32 32 ++ v }) ∧
  (off.val = 3 → s.busy = false → step s = .next { u with buf := v ++ s.buf.extractLsb' 0 32 }) ∧
  (off.val = 4 → s.busy = false → step s = .next { u with len := v }) ∧
  (off.val = 5 → s.busy = false → step s = .next { u with seed := v }) ∧
  ((2 ≤ off.val ∧ off.val ≤ 5) → s.busy = true → step s = .next { u with cerr := true }) ∧
  ((off.val = 1 ∨ 6 ≤ off.val) → step s = .next { u with cerr := true })

/-- R53: a host read returns the register's value and has no effect on the block. -/
def Obligations.HostReadsReturnTheWindowRegisters : Prop :=
  (∀ (s : State) (off : Offset) (ms : List Move), s.schedule = .hostRead off :: ms →
    step s = .next { s with schedule := ms, replies := hostReadValue s off :: s.replies }) ∧
  ∀ s : State,
    hostReadValue s 0 = 0#32 ∧ hostReadValue s 1 = s.statusWord ∧
    hostReadValue s 2 = s.buf.extractLsb' 0 32 ∧ hostReadValue s 3 = s.buf.extractLsb' 32 32 ∧
    hostReadValue s 4 = s.len ∧ hostReadValue s 5 = s.seed ∧ hostReadValue s 6 = s.result ∧
    hostReadValue s 7 = 0x43524332#32 ∧
    hostReadValue s 8 = s.acca.extractLsb' 0 32 ∧ hostReadValue s 9 = s.accb.extractLsb' 0 32 ∧
    hostReadValue s 10 = s.k ∧
    hostReadValue s 11 = s.q.extractLsb' 0 32 ∧ hostReadValue s 12 = s.q.extractLsb' 32 32 ∧
    hostReadValue s 13 = s.ptr.extractLsb' 0 32 ∧ hostReadValue s 14 = s.ptr.extractLsb' 32 32 ∧
    hostReadValue s 15 = s.rem ∧ hostReadValue s 16 = s.foldWord ∧
    ∀ off : Offset, 17 ≤ off.val → hostReadValue s off = 0#32

/-- R43 and R51: the fields of STATUS and FOLD_V, the numbers PHASE and FCODE show there (R34, R142), and the legal
combinations of STATUS. -/
def Obligations.StatusAndFoldFields : Prop :=
  (Phase.idle.code.toNat = 0 ∧ Phase.init.code.toNat = 1 ∧ Phase.align.code.toNat = 2 ∧ Phase.bulk.code.toNat = 3 ∧
    Phase.lanes.code.toNat = 4 ∧ Phase.lut.code.toNat = 5 ∧ Phase.clm.code.toNat = 6 ∧ Phase.mrg.code.toNat = 7 ∧
    Phase.adv.code.toNat = 8 ∧ Phase.wtail.code.toNat = 9 ∧ Phase.btail.code.toNat = 10 ∧
    Phase.fin.code.toNat = 11 ∧ Phase.fault.code.toNat = 15) ∧
  (∀ s : State,
    (s.fcode = none → s.fcodeBits.toNat = 0) ∧ (s.fcode = some .bus → s.fcodeBits.toNat = 1) ∧
    (s.fcode = some .align → s.fcodeBits.toNat = 2) ∧ (s.fcode = some .under → s.fcodeBits.toNat = 3) ∧
    (s.fcode = some .rom → s.fcodeBits.toNat = 4) ∧ (s.fcode = some .seq → s.fcodeBits.toNat = 5) ∧
    (s.fcode = some .range → s.fcodeBits.toNat = 6)) ∧
  (∀ s : State,
    s.statusWord.getLsbD 0 = s.busy ∧ s.statusWord.getLsbD 1 = s.done ∧ s.statusWord.getLsbD 2 = s.fault ∧
    s.statusWord.getLsbD 3 = s.cerr ∧ s.statusWord.extractLsb' 4 4 = s.fcodeBits ∧
    s.statusWord.extractLsb' 8 4 = s.phase.code ∧ s.statusWord.extractLsb' 12 20 = 0#20 ∧
    s.foldWord.extractLsb' 0 8 = s.n ∧ s.foldWord.extractLsb' 8 8 = s.ja ∧ s.foldWord.extractLsb' 16 8 = s.jb ∧
    s.foldWord.extractLsb' 24 8 = 0#8 ∧ s.fcodeBits.toNat ≤ 6) ∧
  ∀ s : State, s.Inv →
    (s.busy = true → s.fault = false ∧ s.done = false ∧ 1 ≤ s.phase.code.toNat ∧ s.phase.code.toNat ≤ 11) ∧
    (s.fault = true → s.busy = false ∧ s.phase.code.toNat = 15) ∧
    (s.busy = false → s.fault = false → s.phase.code.toNat = 0)

/-- R41 and R54: the bus addresses of the window are `WINDOW_BASE` plus a multiple of 4 below 128, for every value of
the open parameter, and an access anywhere else is no transaction of this block. -/
def Obligations.WindowBusAddresses : Prop :=
  (∀ off : Offset, busAddress off = Config.windowBase + BitVec.ofNat 64 (4 * off.val) ∧
    offsetOfBus (busAddress off) = some off) ∧
  (∀ (a : Addr) (off : Offset), offsetOfBus a = some off → a = busAddress off) ∧
  Config.windowBase.toNat % 128 = 0 ∧
  ∀ a : Addr, (a.toNat % 4 ≠ 0 ∨ 128 ≤ (a - Config.windowBase).toNat) → offsetOfBus a = none

/-! ## What each operation does, and where it faults -/

/-- R105. -/
def Obligations.NopChangesNothing : Prop := decode 0x00000000#32 = .ok .nop ∧ ∀ s : State, exec .nop s = .next s

/-- R106. -/
def Obligations.InitBeginsAComputation : Prop := decode 0x00000001#32 = .ok .init ∧ ∀ s : State,
  (s.buf.toNat + s.len.toNat < 2 ^ 64 → exec .init s = .next { s with
    acca := s.seed.setWidth 64, accb := 0, ptr := s.buf, rem := s.len, n := 0, ja := 0, jb := 0, k := 0, q := 0,
    done := false }) ∧
  (2 ^ 64 ≤ s.buf.toNat + s.len.toNat → exec .init s = .next (s.raiseFault .range)) ∧
  (s.len = 0 → s.buf.toNat + s.len.toNat < 2 ^ 64)

/-- R107. -/
def Obligations.S8ConsumesOneByte : Prop := decode 0x00000002#32 = .ok .s8 ∧ ∀ s : State,
  (∀ b, s.n = 0 → s.rem ≠ 0 → s.mem.read s.ptr.toNat = some b → exec .s8 s = .next { s with
    acca := (step8 (s.acca.extractLsb' 0 32) b).setWidth 64, ptr := s.ptr + 1, rem := s.rem - 1 }) ∧
  (s.n ≠ 0 → exec .s8 s = .next (s.raiseFault .seq)) ∧
  (s.n = 0 → s.rem = 0 → exec .s8 s = .next (s.raiseFault .under)) ∧
  (s.n = 0 → s.rem ≠ 0 → s.mem.read s.ptr.toNat = none → exec .s8 s = .next (s.raiseFault .bus)) ∧
  (s.Inv → s.rem ≠ 0 → (s.ptr + 1).toNat = s.ptr.toNat + 1)

/-- R108. -/
def Obligations.S64ConsumesOneWord : Prop := decode 0x00000003#32 = .ok .s64 ∧ ∀ s : State,
  (∀ w, s.n = 0 → 8 ≤ s.rem.toNat → s.ptr.toNat % 8 = 0 → memRead8 s.mem s.ptr = .ok w → exec .s64 s = .next { s with
    acca := step64 s.acca w, ptr := s.ptr + 8, rem := s.rem - 8 }) ∧
  (s.n ≠ 0 → exec .s64 s = .next (s.raiseFault .seq)) ∧
  (s.n = 0 → s.rem.toNat < 8 → exec .s64 s = .next (s.raiseFault .under)) ∧
  (s.n = 0 → 8 ≤ s.rem.toNat → s.ptr.toNat % 8 ≠ 0 → exec .s64 s = .next (s.raiseFault .align)) ∧
  (s.n = 0 → 8 ≤ s.rem.toNat → s.ptr.toNat % 8 = 0 → memRead8 s.mem s.ptr = .error .bus →
    exec .s64 s = .next (s.raiseFault .bus))

/-- R109. -/
def Obligations.S8IStepsOnTheImmediateByte : Prop := ∀ byte : Byte,
  decode (0x00000004#32 ||| byte.setWidth 32 <<< 8) = .ok (.s8i byte) ∧ ∀ s : State,
    exec (.s8i byte) s = .next { s with acca := (step8 (s.acca.extractLsb' 0 32) byte).setWidth 64 }

/-- R110. -/
def Obligations.FinReturnsTheAccumulator : Prop := decode 0x00000005#32 = .ok .fin ∧ ∀ s : State,
  exec .fin s = .next { s with result := s.acca.extractLsb' 0 32, done := true }

/-- R111. -/
def Obligations.FsetOpensAFold : Prop := decode 0x00000008#32 = .ok .fset ∧ ∀ (s : State) (n : Nat),
  n = min (s.rem.toNat / 16) s.cfg.nMax →
  (s.n = 0 → 16 ≤ s.rem.toNat → s.ptr.toNat % 8 = 0 → exec .fset s = .next { s with
    n := BitVec.ofNat 8 n, ja := 0, jb := 0, accb := 0 }) ∧
  (s.cfg.Legal → 16 ≤ s.rem.toNat →
    1 ≤ n ∧ n ≤ s.cfg.nMax ∧ 16 * n ≤ s.rem.toNat ∧ (BitVec.ofNat 8 n).toNat = n) ∧
  (s.cfg.Legal → s.cfg.leafBytes ≤ s.rem.toNat → s.cfg.leafBytes ≤ 16 * n) ∧
  (s.n ≠ 0 → exec .fset s = .next (s.raiseFault .seq)) ∧
  (s.n = 0 → s.rem.toNat < 16 → exec .fset s = .next (s.raiseFault .under)) ∧
  (s.n = 0 → 16 ≤ s.rem.toNat → s.ptr.toNat % 8 ≠ 0 → exec .fset s = .next (s.raiseFault .align))

/-- R112; a misaligned address, which the last clause excludes, is in EightByteReadsAreAligned. -/
def Obligations.SaStepsLaneA : Prop := decode 0x00000009#32 = .ok .sa ∧ ∀ (s : State) (a : Addr),
  a = s.ptr + 8 * s.ja.setWidth 64 →
  (∀ w, s.n ≠ 0 → s.ja.toNat < s.n.toNat → memRead8 s.mem a = .ok w → exec .sa s = .next { s with
    acca := step64 s.acca w, ja := s.ja + 1 }) ∧
  ((s.n = 0 ∨ s.n.toNat ≤ s.ja.toNat) → exec .sa s = .next (s.raiseFault .seq)) ∧
  (s.n ≠ 0 → s.ja.toNat < s.n.toNat → memRead8 s.mem a = .error .bus → exec .sa s = .next (s.raiseFault .bus)) ∧
  (s.Inv → s.n ≠ 0 → a.toNat % 8 = 0)

/-- R113; a misaligned address, which the last clause excludes, is in EightByteReadsAreAligned. -/
def Obligations.SbStepsLaneB : Prop := decode 0x0000000A#32 = .ok .sb ∧ ∀ (s : State) (a : Addr),
  a = s.ptr + 8 * s.n.setWidth 64 + 8 * s.jb.setWidth 64 →
  (∀ w, s.n ≠ 0 → s.jb.toNat + 1 < s.n.toNat → memRead8 s.mem a = .ok w → exec .sb s = .next { s with
    accb := step64 s.accb w, jb := s.jb + 1 }) ∧
  ((s.n = 0 ∨ s.n.toNat ≤ s.jb.toNat + 1) → exec .sb s = .next (s.raiseFault .seq)) ∧
  (s.n ≠ 0 → s.jb.toNat + 1 < s.n.toNat → memRead8 s.mem a = .error .bus →
    exec .sb s = .next (s.raiseFault .bus)) ∧
  (s.Inv → s.n ≠ 0 → a.toNat % 8 = 0)

/-- R114. -/
def Obligations.LutFetchesTheFoldConstant : Prop := decode 0x0000000B#32 = .ok .lut ∧ ∀ s : State,
  (s.n ≠ 0 → s.n.toNat - 1 < s.cfg.romDepth → exec .lut s = .next { s with k := tbl (s.n.toNat - 1) }) ∧
  (s.n = 0 → exec .lut s = .next (s.raiseFault .seq)) ∧
  (s.n ≠ 0 → s.cfg.romDepth ≤ s.n.toNat - 1 → exec .lut s = .next (s.raiseFault .rom)) ∧
  (s.Inv → s.n ≠ 0 → s.n.toNat - 1 < s.cfg.romDepth)

/-- R115. -/
def Obligations.LutiReadsAnyEntry : Prop :=
  (∀ imm8 : Byte, decode (0x0000000C#32 ||| imm8.setWidth 32 <<< 8) = .ok (.luti imm8.toNat)) ∧
  ∀ (s : State) (index : Nat),
    (index < s.cfg.romDepth → exec (.luti index) s = .next { s with k := tbl index }) ∧
    (s.cfg.romDepth ≤ index → exec (.luti index) s = .next (s.raiseFault .rom)) ∧
    (s.cfg.romDepth = 256 → (Instr.luti index).WellFormed → index < s.cfg.romDepth)

/-- R116. -/
def Obligations.ClmMultipliesKByLaneA : Prop := decode 0x0000000D#32 = .ok .clm ∧ ∀ s : State,
  exec .clm s = .next { s with q := (clmul (s.k.setWidth 64) s.acca).extractLsb' 0 64 } ∧
  (s.Inv → (clmul (s.k.setWidth 64) s.acca).extractLsb' 64 64 = 0) ∧
  (s.k = 1 → exec .clm s = .next { s with q := s.acca }) ∧
  ((s.k = 0 ∨ s.acca = 0) → exec .clm s = .next { s with q := 0 })

/-- R117, the last clause its effect: the words `as` of lane A and `bs` of lane B have been taken, K and Q computed
after them, and MRG's own word comes last. A misaligned address is in EightByteReadsAreAligned. -/
def Obligations.MrgMergesTheLanes : Prop := decode 0x0000000E#32 = .ok .mrg ∧ ∀ (s : State) (a : Addr),
  a = s.ptr + 8 * s.n.setWidth 64 + 8 * s.jb.setWidth 64 →
  (∀ w, s.n ≠ 0 → s.ja = s.n → s.jb.toNat + 1 = s.n.toNat → memRead8 s.mem a = .ok w → exec .mrg s = .next { s with
    acca := step64 s.accb (s.q ^^^ w), jb := s.n }) ∧
  ((s.n = 0 ∨ s.ja ≠ s.n ∨ s.jb.toNat + 1 ≠ s.n.toNat) → exec .mrg s = .next (s.raiseFault .seq)) ∧
  (s.n ≠ 0 → s.ja = s.n → s.jb.toNat + 1 = s.n.toNat → memRead8 s.mem a = .error .bus →
    exec .mrg s = .next (s.raiseFault .bus)) ∧
  ∀ (c : Word32) (as bs : List Word64) (w : Word64), s.n ≠ 0 → s.ja = s.n → s.jb.toNat + 1 = s.n.toNat →
    memRead8 s.mem a = .ok w → as.length = s.n.toNat → bs.length + 1 = s.n.toNat →
    s.acca = chain64 (zext64 c) as → s.accb = chain64 0 bs → s.k = tbl (s.n.toNat - 1) →
    s.q = clmulLow (zext64 s.k) s.acca →
    exec .mrg s = .next { s with acca := chain64 (zext64 c) (as ++ (bs ++ [w])), jb := s.n }

/-- R118. -/
def Obligations.AdvClosesTheFold : Prop := decode 0x0000000F#32 = .ok .adv ∧ ∀ s : State,
  (s.n ≠ 0 → s.ja = s.n → s.jb = s.n → exec .adv s = .next { s with
    ptr := s.ptr + BitVec.ofNat 64 (16 * s.n.toNat), rem := s.rem - BitVec.ofNat 32 (16 * s.n.toNat),
    n := 0, ja := 0, jb := 0, accb := 0 }) ∧
  ((s.n = 0 ∨ s.ja ≠ s.n ∨ s.jb ≠ s.n) → exec .adv s = .next (s.raiseFault .seq)) ∧
  (s.Inv → s.n ≠ 0 → 16 * s.n.toNat ≤ s.rem.toNat ∧ (s.ptr + BitVec.ofNat 64 (16 * s.n.toNat)).toNat % 8 = 0)

/-- R122, its acceptance. -/
def Obligations.CrcStartsTheSequencer : Prop := decode 0x00000010#32 = .ok .crc ∧ ∀ s : State,
  exec .crc s = .next { s with busy := true, done := false, phase := .init }

/-- R138: every register of the block takes its reset value; the parameters, external memory and the agents' own
fields are not the block's. It is accepted only when BUSY = 0. -/
def Obligations.SrstResetsEveryRegister : Prop := decode 0x0000001F#32 = .ok .srst ∧ ∀ s : State,
  exec .srst s = .next { s with
    acca := 0, accb := 0, ptr := 0, rem := 0, n := 0, ja := 0, jb := 0, k := 0, q := 0, result := 0, buf := 0,
    len := 0, seed := 0, phase := .idle, busy := false, done := false, fault := false, fcode := none, cerr := false } ∧
  ∀ ms, s.schedule = .hostWrite cmdOffset 0x0000001F#32 :: ms →
    step s = if s.busy then .next { s with schedule := ms, cerr := true } else exec .srst { s with schedule := ms }

/-! ## The sequencer -/

/-- R123 for the engine without a run: no step exactly when BUSY = 0. That such an engine can be moved, and that the move
changes nothing, is the model's choice (log entry 4). -/
def Obligations.IdleEngineHasNoStep : Prop := ∀ s u : State,
  nextMove s = (.engine, u) → u.busy = false → step s = .next u

/-- R124, R128, R129, R130, R131 and R134. -/
def Obligations.SequencerFixedPhases : Prop := ∀ s u : State, nextMove s = (.engine, u) → u.busy = true →
  (u.phase = .init → s.StepIssues u .init .align) ∧
  (u.phase = .lut → s.StepIssues u .lut .clm) ∧
  (u.phase = .clm → s.StepIssues u .clm .mrg) ∧
  (u.phase = .mrg → s.StepIssues u .mrg .adv) ∧
  (u.phase = .adv → s.StepIssues u .adv .bulk) ∧
  (u.phase = .fin → step s = .next { u with
    result := u.acca.extractLsb' 0 32, done := true, phase := .idle, busy := false })

/-- The conditions and successors of R125, R126, R127, R132 and R133, and what the sequencer issues (R82). -/
def Obligations.SequencerLoopPhases : Prop :=
  (∀ s u : State, nextMove s = (.engine, u) → u.busy = true →
    (u.phase = .align → u.ptr.toNat % 8 ≠ 0 → u.rem ≠ 0 → s.StepIssues u .s8 .align) ∧
    (u.phase = .align → (u.ptr.toNat % 8 = 0 ∨ u.rem = 0) → step s = .next { u with phase := .bulk }) ∧
    (u.phase = .bulk → u.cfg.leafBytes ≤ u.rem.toNat → s.StepIssues u .fset .lanes) ∧
    (u.phase = .bulk → u.rem.toNat < u.cfg.leafBytes → step s = .next { u with phase := .wtail }) ∧
    (u.phase = .lanes → u.ja.toNat ≤ u.jb.toNat → u.ja.toNat < u.n.toNat → s.StepIssues u .sa .lanes) ∧
    (u.phase = .lanes → ¬(u.ja.toNat ≤ u.jb.toNat ∧ u.ja.toNat < u.n.toNat) → u.jb.toNat + 1 < u.n.toNat →
      s.StepIssues u .sb .lanes) ∧
    (u.phase = .lanes → ¬(u.ja.toNat ≤ u.jb.toNat ∧ u.ja.toNat < u.n.toNat) → u.n.toNat ≤ u.jb.toNat + 1 →
      step s = .next { u with phase := .lut }) ∧
    (u.phase = .wtail → 8 ≤ u.rem.toNat → s.StepIssues u .s64 .wtail) ∧
    (u.phase = .wtail → u.rem.toNat < 8 → step s = .next { u with phase := .btail }) ∧
    (u.phase = .btail → u.rem ≠ 0 → s.StepIssues u .s8 .btail) ∧
    (u.phase = .btail → u.rem = 0 → step s = .next { u with phase := .fin })) ∧
  ∀ (s : State) (op : Instr) (p : Phase), seqAction s = .issue op p →
    op ∈ [Instr.init, .s8, .s64, .fset, .sa, .sb, .lut, .clm, .mrg, .adv]

/-! ## Reset -/

/-- R159: the reset values, what the window reads after reset, and both kinds of reset from any state, external memory
kept. -/
def Obligations.ResetValues : Prop :=
  (State.reset.acca = 0 ∧ State.reset.accb = 0 ∧ State.reset.ptr = 0 ∧ State.reset.rem = 0 ∧ State.reset.n = 0 ∧
    State.reset.ja = 0 ∧ State.reset.jb = 0 ∧ State.reset.k = 0 ∧ State.reset.q = 0 ∧ State.reset.result = 0 ∧
    State.reset.buf = 0 ∧ State.reset.len = 0 ∧ State.reset.seed = 0 ∧ State.reset.phase = .idle ∧
    State.reset.busy = false ∧ State.reset.done = false ∧ State.reset.fault = false ∧ State.reset.fcode = none ∧
    State.reset.cerr = false) ∧
  (∀ off : Offset, hostReadValue State.reset off = if off.val = 7 then 0x43524332#32 else 0#32) ∧
  (∀ (s : State) (ms : List Move), s.schedule = .hwReset :: ms →
    step s = .next { State.reset with cfg := s.cfg, mem := s.mem, schedule := ms, replies := s.replies }) ∧
  ∀ s : State, exec .srst s =
    .next { State.reset with cfg := s.cfg, mem := s.mem, schedule := s.schedule, replies := s.replies }

/-- R162: every command as the first one after a reset, whatever memory the platform has. Its last clause, the run of CRC,
rests on the model's choices that the empty schedule leaves the engine to move (log entry 4) and that a phase-only
transition is a step, so that the run has 7 (log entry 18). -/
def Obligations.FirstCommandAfterReset : Prop := ∀ (m : Memory) (r : State), r = { State.reset with mem := m } →
  exec .s8 r = .next (r.raiseFault .under) ∧ exec .s64 r = .next (r.raiseFault .under) ∧
  exec .fset r = .next (r.raiseFault .under) ∧
  exec .sa r = .next (r.raiseFault .seq) ∧ exec .sb r = .next (r.raiseFault .seq) ∧
  exec .lut r = .next (r.raiseFault .seq) ∧ exec .mrg r = .next (r.raiseFault .seq) ∧
  exec .adv r = .next (r.raiseFault .seq) ∧
  exec .nop r = .next r ∧ exec .clm r = .next r ∧ exec .fin r = .next { r with done := true } ∧
  exec .init r = .next r ∧ exec .srst r = .next r ∧
  (∀ byte, exec (.s8i byte) r = .next { r with acca := (step8 0 byte).setWidth 64 }) ∧
  (∀ index, index < 256 → exec (.luti index) r = .next { r with k := tbl index }) ∧
  Host.Core.run Sys2Proof.core 7 { r with schedule := [.hostWrite cmdOffset 0x00000010#32] } =
    .next { r with done := true }

/-! ## Frames, faults, invariants -/

/-- R32: an operation touches no register outside its row, unless it faults; and it leaves every byte of memory. -/
def Obligations.OperationsTouchOnlyTheirRow : Prop := ∀ (i : Instr) (s t : State), exec i s = .next t →
  (∀ a, t.mem.read a = s.mem.read a) ∧
  ((∃ c, t = s.raiseFault c) ∨
    match i with
    | .nop => t = s
    | .init => t = { s with
        acca := t.acca, accb := t.accb, ptr := t.ptr, rem := t.rem, n := t.n, ja := t.ja, jb := t.jb, k := t.k,
        q := t.q, done := false }
    | .s8 | .s64 => t = { s with acca := t.acca, ptr := t.ptr, rem := t.rem }
    | .s8i _ => t = { s with acca := t.acca }
    | .fin => t = { s with result := t.result, done := true }
    | .fset => t = { s with accb := t.accb, n := t.n, ja := t.ja, jb := t.jb }
    | .sa => t = { s with acca := t.acca, ja := t.ja }
    | .sb => t = { s with accb := t.accb, jb := t.jb }
    | .lut | .luti _ => t = { s with k := t.k }
    | .clm => t = { s with q := t.q }
    | .mrg => t = { s with acca := t.acca, jb := t.jb }
    | .adv => t = { s with accb := t.accb, ptr := t.ptr, rem := t.rem, n := t.n, ja := t.ja, jb := t.jb }
    | .crc => t = { s with busy := t.busy, done := false, phase := t.phase }
    | .srst => t = s.resetBlock)

/-- R141: an operation that faults makes the four writes of the fault entry and nothing else. -/
def Obligations.FaultEntryIsPrecise : Prop := ∀ (i : Instr) (s t : State), s.phase ≠ .fault →
  exec i s = .next t → t.phase = .fault →
  ∃ c, t = { s with fault := true, fcode := some c, busy := false, phase := .fault }

/-- R142: each operation raises the causes listed for it and no other; with `ROM_DEPTH = 256`, F_ROM is never raised. -/
def Obligations.FaultCausesAreTheListedOnes : Prop := ∀ (i : Instr) (s t : State) (c : FaultCode), s.Inv →
  s.fault = false → exec i s = .next t → t.fcode = some c →
  c ∈ faultCauses i ∧ (i.WellFormed → s.cfg.romDepth = 256 → c ≠ .rom)

/-- R146, R147 and R151: while FAULT = 1 no move but SRST and hardware reset changes more than the operand registers,
CERR, and what belongs to the agents outside. -/
def Obligations.FaultIsStickyUntilReset : Prop := ∀ s t : State, s.Inv → s.fault = true →
  (∀ ms, s.schedule ≠ .hwReset :: ms) →
  (∀ w ms, s.schedule = .hostWrite cmdOffset w :: ms → decode w ≠ .ok .srst) →
  step s = .next t →
  t = { s with
    buf := t.buf, len := t.len, seed := t.seed, cerr := t.cerr, mem := t.mem, schedule := t.schedule,
    replies := t.replies }

/-- R135, R142 and R165: an engine step of a run faults with F_BUS or F_RANGE only, and leaves DONE = 0 and RESULT as
they were. -/
def Obligations.SequencerFaultsAreBusOrRange : Prop := ∀ s u t : State, s.Inv → nextMove s = (.engine, u) →
  u.busy = true → step s = .next t → t.fault = true →
  (t.fcode = some .bus ∨ t.fcode = some .range) ∧ t.done = false ∧
    t = { u with fault := true, fcode := t.fcode, busy := false, phase := .fault }

/-- Every step keeps the invariant (R20, R21, R24 to R27, R43, R65, R96, R125 to R133). -/
def Obligations.StepKeepsTheInvariant : Prop := ∀ s t : State, s.Inv → step s = .next t → t.Inv

/-- The state after reset meets the invariant. -/
def Obligations.ResetMeetsTheInvariant : Prop := State.reset.Inv

/-- Every state has a next one: no step of the machine stops. Two of the next states are the model's choices: with
BUSY = 0 R123 gives the engine no step, and the move that an empty schedule leaves to it changes nothing (log entry 4);
with BUSY = 1 in P_IDLE or P_FAULT, which R43 excludes, the engine's move changes nothing either (log entry 9). -/
def Obligations.EveryStateHasANextOne : Prop := ∀ s : State, ∃ t, step s = .next t

/-- R24: no operation but INIT and SRST changes `PTR + REM`. -/
def Obligations.ExtentIsKept : Prop := ∀ (i : Instr) (s t : State), s.Inv → i ≠ .init → i ≠ .srst →
  exec i s = .next t → t.ptr.toNat + t.rem.toNat = s.ptr.toNat + s.rem.toNat

/-- R62: no operation depends on a byte of memory outside `[PTR, PTR + REM)`. -/
def Obligations.ReadsStayInsideTheBuffer : Prop := ∀ (i : Instr) (s t : State) (m : Memory), s.Inv →
  (∀ a, s.ptr.toNat ≤ a → a < s.ptr.toNat + s.rem.toNat → m.read a = s.mem.read a) →
  exec i s = .next t → exec i { s with mem := m } = .next { t with mem := m }

/-- R61: only the move of another writer changes external memory. That no move changes the parameters is the model's
choice (log entry 1). -/
def Obligations.EngineNeverWritesMemory : Prop := ∀ s t : State, step s = .next t →
  t.cfg = s.cfg ∧
  ((∀ a bs ms, s.schedule ≠ .memWrite a bs :: ms) → t.mem = s.mem ∧ ∀ a, t.mem.read a = s.mem.read a)

/-- R67: another writer's step replaces the valid bytes of its range and changes nothing else. That such a step is a list
of bytes and leaves invalid addresses alone is the model's choice (log entry 8). -/
def Obligations.OtherWritersReplaceValidBytes : Prop :=
  ∀ (s : State) (a : Addr) (bs : List Byte) (ms : List Move), s.schedule = .memWrite a bs :: ms →
  ∃ m, step s = .next { s with schedule := ms, mem := m } ∧
    ∀ x, m.read x =
      if a.toNat ≤ x ∧ x < a.toNat + bs.length ∧ s.mem.valid x = true then bs[x - a.toNat]? else s.mem.read x

/-- R144: CERR stays set until SRST or reset, and is read by no rule: but for a read of STATUS, a step does the same
whatever CERR is. -/
def Obligations.CommandErrorMarkIsInert : Prop := ∀ s t : State, step s = .next t →
  (s.cerr = true → (∀ ms, s.schedule ≠ .hwReset :: ms) →
    (∀ w ms, s.schedule = .hostWrite cmdOffset w :: ms → s.busy = false → decode w ≠ .ok .srst) → t.cerr = true) ∧
  ∀ b : Bool, (∀ ms, s.schedule ≠ .hostRead 1 :: ms) →
    ∃ b', step { s with cerr := b } = .next { t with cerr := b' }

/-- R119: any order of the same SA, SB and LUT steps reaches the same state. -/
def Obligations.LaneOrderIsFree : Prop := ∀ (l l' : List Instr) (s t : State),
  (∀ i ∈ l, i = .sa ∨ i = .sb ∨ i = .lut) → l.Perm l' → s.fault = false →
  execAll l s = .next t → t.fault = false → execAll l' s = .next t

/-- R121: a datapath operation does the same to the datapath in a run and by hand, and leaves BUSY and PHASE. -/
def Obligations.OperationsIgnoreBusyAndPhase : Prop :=
  ∀ (i : Instr) (s t : State) (b : Bool) (p : Phase), i ≠ .crc → i ≠ .srst → s.phase ≠ .fault →
  exec i s = .next t → t.phase = s.phase →
  t.busy = s.busy ∧ exec i { s with busy := b, phase := p } = .next { t with busy := b, phase := p }

/-- R57, R58 and R59: an eight-byte read is the little-endian word of eight valid bytes at a multiple of 8, a bus
error where one of them is not valid, and F_ALIGN anywhere else, also for SA, SB and MRG in states no run reaches (log
entry 7); a one-byte read needs no alignment. By R65 no read that touches the host window succeeds in a state of the
invariant; where the platform shows the window is a parameter (log entry 17). -/
def Obligations.EightByteReadsAreAligned : Prop :=
  (∀ (m : Memory) (a : Addr),
    (∀ w, memRead8 m a = .ok w ↔
      a.toNat % 8 = 0 ∧ ∀ i, i < 8 → m.read (a.toNat + i) = some (w.extractLsb' (8 * i) 8)) ∧
    (memRead8 m a = .error .bus ↔ a.toNat % 8 = 0 ∧ ∃ i, i < 8 ∧ m.read (a.toNat + i) = none) ∧
    (memRead8 m a = .error .align ↔ a.toNat % 8 ≠ 0) ∧
    (∀ b, memRead1 m a = .ok b ↔ m.read a.toNat = some b) ∧
    (memRead1 m a = .error .bus ↔ m.read a.toNat = none)) ∧
  (∀ s : State, s.n ≠ 0 → s.ptr.toNat % 8 ≠ 0 →
    (s.ja.toNat < s.n.toNat → exec .sa s = .next (s.raiseFault .align)) ∧
    (s.jb.toNat + 1 < s.n.toNat → exec .sb s = .next (s.raiseFault .align)) ∧
    (s.ja = s.n → s.jb.toNat + 1 = s.n.toNat → exec .mrg s = .next (s.raiseFault .align))) ∧
  ∀ (s : State) (base a : Addr), s.Inv → s.cfg.windowView = some base →
    (base.toNat ≤ a.toNat → a.toNat < base.toNat + 128 → memRead1 s.mem a = .error .bus) ∧
    (a.toNat % 8 = 0 → base.toNat < a.toNat + 8 → a.toNat < base.toNat + 128 → memRead8 s.mem a = .error .bus)

/-! ## The datapath functions -/

/-- R88 and R93: `lfsr`, `step8`, `step64` and `chain64` are linear over xor. -/
def Obligations.StepsAreLinear : Prop :=
  (∀ (r s : Word32) (k : Nat), lfsr (r ^^^ s) k = lfsr r k ^^^ lfsr s k ∧ lfsr 0 k = 0) ∧
  (∀ (s1 s2 : Word32) (b1 b2 : Byte), step8 (s1 ^^^ s2) (b1 ^^^ b2) = step8 s1 b1 ^^^ step8 s2 b2) ∧
  (∀ s1 s2 w1 w2 : Word64, step64 (s1 ^^^ s2) (w1 ^^^ w2) = step64 s1 w1 ^^^ step64 s2 w2) ∧
  (∀ (s1 s2 : Word64) (l1 l2 : List Word64), l1.length = l2.length →
    chain64 (s1 ^^^ s2) (List.zipWith (· ^^^ ·) l1 l2) = chain64 s1 l1 ^^^ chain64 s2 l2) ∧
  ∀ (s : Word64) (k : Nat), lo32 (chain64 s (List.replicate k 0)) = lfsr (lo32 s) (64 * k)

/-- R90 and R104: the oracle is `step8` byte by byte, composes over concatenation, and keeps zero over zeros. -/
def Obligations.OracleLaws : Prop :=
  (∀ (s : Word32) (b : Byte), crcSerial s [b] = step8 s b) ∧
  (∀ (s : Word32) (b1 b2 : List Byte), crcSerial s (b1 ++ b2) = crcSerial (crcSerial s b1) b2) ∧
  ∀ k : Nat, crcSerial 0 (List.replicate k 0) = 0

/-- R91, R92 and R94: `step64` ignores the upper half of its state, returns a zero upper half, takes the state as data,
and is eight byte steps over the bytes of its word, lowest first. -/
def Obligations.WordStepIsEightByteSteps : Prop :=
  (∀ s w : Word64, (step64 s w).toNat < 2 ^ 32 ∧ step64 s w = step64 (zext64 (lo32 s)) w ∧
    step64 s w = step64 0 (w ^^^ zext64 (lo32 s)) ∧ lo32 (step64 s w) = crcSerial (lo32 s) (bytesOfWord w)) ∧
  ∀ (s : Word64) (ws : List Word64), lo32 (chain64 s ws) = crcSerial (lo32 s) (ws.flatMap bytesOfWord)

/-- R95: bit `m` of the carryless product is the xor over `i + j = m` of `a[i] & b[j]`. -/
def Obligations.ClmulIsTheXorConvolution : Prop := ∀ (a b : Word64) (m : Nat),
  (clmul a b).getLsbD m =
    ((List.range (m + 1)).map fun i => a.getLsbD i && b.getLsbD (m - i)).foldr Bool.xor false

/-- R96: `clmul` is commutative, bilinear and bounded. -/
def Obligations.ClmulLaws : Prop :=
  (∀ a b : Word64, clmul a b = clmul b a) ∧
  (∀ a b c : Word64, clmul (a ^^^ c) b = clmul a b ^^^ clmul c b) ∧
  (∀ (a b : Word64) (m n : Nat), 1 ≤ m → 1 ≤ n → a.toNat < 2 ^ m → b.toNat < 2 ^ n →
    (clmul a b).toNat < 2 ^ (m + n - 1))

/-- R100: a product with entry `i`, passed through one `step64` with zero state, is shifted by `i + 1` words. -/
def Obligations.TableEntryShifts : Prop := ∀ (a : Word32) (i : Nat),
  lo32 (step64 0 (clmulLow (zext64 (tbl i)) (zext64 a))) = lfsr a (64 * (i + 1))

/-- R102, with `n = as.length`, `B_0..B_(n-2)` in `bs` and `B_(n-1)` in `last`. -/
def Obligations.MergeFoldsTheLanes : Prop := ∀ (c : Word32) (as bs : List Word64) (last : Word64),
  as.length = bs.length + 1 →
  step64 (chain64 0 bs) (clmulLow (zext64 (tbl (as.length - 1))) (chain64 (zext64 c) as) ^^^ last) =
    chain64 (zext64 c) (as ++ (bs ++ [last]))

/-- R87, R88, R91, R97 and R99 in the polynomials of R17. -/
def Obligations.PolynomialMeaning : Prop :=
  (∀ (r : Word32) (k : Nat), Poly.poly32 (lfsr r k) =
    Polynomial.modByMonic (Polynomial.X ^ k * Poly.poly32 r) Poly.generator) ∧
  (∀ s w : Word64, Poly.poly32 (lo32 (step64 s w)) = Polynomial.modByMonic
    (Poly.poly32 (lo32 s) * Polynomial.X ^ 64 + Poly.poly64 w * Polynomial.X ^ 32) Poly.generator) ∧
  (∀ u v : Word32, Poly.poly64 (clmulLow (zext64 u) (zext64 v)) = Polynomial.X * Poly.poly32 u * Poly.poly32 v) ∧
  ∀ i : Nat, Poly.poly32 (tbl i) = Polynomial.modByMonic (Polynomial.X ^ (64 * i + 31)) Poly.generator

/-- R98, R101 and R140: the recurrence gives the listed table, no entry zero, all distinct, each independent of the
table's length, and the ROM read of LUT and LUTI gives the listed entries in every state. -/
def Obligations.RomHoldsTheListedTable : Prop :=
  (∀ i : Nat, tbl i = lfsr 1 (64 * i)) ∧
  (∀ (s : State) (i : Nat) (v : Word32), i < s.cfg.romDepth → romListing[i]? = some v →
    exec (.luti i) s = .next { s with k := v }) ∧
  buildTable 256 = romListing ∧ 0#32 ∉ romListing ∧ romListing.Nodup ∧
  ∀ m n i : Nat, i < m → i < n → (buildTable m)[i]? = (buildTable n)[i]?

/-! ## Runs of the CRC command -/

/-- R135: a run over a valid buffer ends, with the oracle's value in RESULT and the stated end state; the latches K
and Q keep what the last fold left in them. That the empty schedule leaves the engine to move is log entry 4. -/
def Obligations.CrcRunComputesTheCrc : Prop := ∀ (s : State) (bytes : List Byte),
  s.cfg.Legal → s.busy = false → s.fault = false → s.schedule = [.hostWrite cmdOffset 0x00000010#32] →
  s.buf.toNat + s.len.toNat < 2 ^ 64 → s.bufferBytes = some bytes →
  ∃ (steps : Nat) (k : Word32) (q : Word64), Host.Core.run Sys2Proof.core steps s = .next { s with
    schedule := [], result := crcSerial s.seed bytes, acca := zext64 (crcSerial s.seed bytes), accb := 0,
    ptr := s.buf + s.len.setWidth 64, rem := 0, n := 0, ja := 0, jb := 0, k := k, q := q,
    phase := .idle, busy := false, done := true }

/-- R135: a step of a run keeps its supporting invariant, whoever moves, but for another writer of memory and a hardware
reset; INIT begins it or faults with F_RANGE. A run whose buffer passes the top of the address space faults so in its
first operation. One with an invalid byte ends in F_BUS at the first read that touches one: the supporting invariant
holds of the registers it leaves, so that every byte taken before was valid and `ACCA` is their CRC when `N = 0` (R148),
and the read those registers call for next is the one with the invalid byte. Neither completes a result. That the empty
schedule leaves the engine to move is log entry 4. -/
def Obligations.CrcRunFaultsOnAnInvalidBuffer : Prop :=
  (∀ s t : State, s.Inv → s.busy = true → (s.phase = .init ∨ s.RunInv) →
    (∀ a bs ms, s.schedule ≠ .memWrite a bs :: ms) → (∀ ms, s.schedule ≠ .hwReset :: ms) → step s = .next t →
    (s.phase = .init ∧ (t.phase = .init ∨ t.fcode = some .range)) ∨ t.RunInv) ∧
  ∀ s : State,
    s.cfg.Legal → s.busy = false → s.fault = false → s.schedule = [.hostWrite cmdOffset 0x00000010#32] →
    (2 ^ 64 ≤ s.buf.toNat + s.len.toNat → Host.Core.run Sys2Proof.core 2 s = .next { s with
      schedule := [], done := false, fault := true, fcode := some .range, busy := false, phase := .fault }) ∧
    (s.buf.toNat + s.len.toNat < 2 ^ 64 → s.bufferBytes = none →
      ∃ (steps : Nat) (t : State), Host.Core.run Sys2Proof.core steps s = .next t ∧
        t.RunInv ∧ t.mem.readBytes t.nextRead.1 t.nextRead.2 = none ∧
        t = { s with
          schedule := [], acca := t.acca, accb := t.accb, ptr := t.ptr, rem := t.rem, n := t.n, ja := t.ja, jb := t.jb,
          k := t.k, q := t.q, done := false, fault := true, fcode := some .bus, busy := false, phase := .fault })

/-- R136 and R168: with no other agent's move left, a busy engine reaches BUSY = 0. That the empty schedule leaves the
engine to move is log entry 4. -/
def Obligations.EveryRunEnds : Prop := ∀ s : State, s.Inv → s.busy = true → s.schedule = [] →
  ∃ (steps : Nat) (t : State), Host.Core.run Sys2Proof.core steps s = .next t ∧ t.busy = false
end

