-- ==== Sys2Proof/Laws/Datapath.lean ====
section
/-! SUPPORT. The small lemmas of the datapath functions: their equations, and the single steps over xor. -/

namespace Sys2Proof.Machine

@[simp] theorem lo32_zext64 (v : Word32) : lo32 (zext64 v) = v := by simp [lo32, zext64]

theorem zext64_xor (a b : Word32) : zext64 (a ^^^ b) = zext64 a ^^^ zext64 b := by
  simp [zext64, BitVec.setWidth_xor]

theorem zext64_toNat (v : Word32) : (zext64 v).toNat = v.toNat := by
  have := v.isLt
  simp only [zext64, BitVec.toNat_setWidth]
  omega

@[simp] theorem lfsr_zero_steps (r : Word32) : lfsr r 0 = r := rfl

theorem lfsr_succ (r : Word32) (k : Nat) : lfsr r (k + 1) = lfsr1 (lfsr r k) := rfl

theorem wordShifts_succ (v : Word64) (i : Nat) : wordShifts v (i + 1) = wordShift (wordShifts v i) := rfl

theorem xor_left_comm {w : Nat} (a b c : BitVec w) : a ^^^ (b ^^^ c) = b ^^^ (a ^^^ c) := by
  rw [← BitVec.xor_assoc, BitVec.xor_comm a b, BitVec.xor_assoc]

@[simp] theorem xor_cancel_left {w : Nat} (a b : BitVec w) : a ^^^ (a ^^^ b) = b := by
  rw [← BitVec.xor_assoc, BitVec.xor_self, BitVec.zero_xor]

/-- One single-bit step of the xor is the xor of the steps. -/
theorem lfsr1_xor (r s : Word32) : lfsr1 (r ^^^ s) = lfsr1 r ^^^ lfsr1 s := by
  unfold lfsr1
  rw [BitVec.getLsbD_xor, BitVec.ushiftRight_xor_distrib]
  cases r.getLsbD 0 <;> cases s.getLsbD 0 <;> simp [BitVec.xor_comm, xor_left_comm]

/-- One shift of the xor is the xor of the shifts. -/
theorem wordShift_xor (v w : Word64) : wordShift (v ^^^ w) = wordShift v ^^^ wordShift w := by
  unfold wordShift
  rw [BitVec.getLsbD_xor, BitVec.ushiftRight_xor_distrib]
  cases v.getLsbD 0 <;> cases w.getLsbD 0 <;> simp [BitVec.xor_assoc, BitVec.xor_comm, xor_left_comm]

@[simp] theorem crcSerial_nil (s : Word32) : crcSerial s [] = s := rfl

theorem crcSerial_cons (s : Word32) (b : Byte) (bs : List Byte) :
    crcSerial s (b :: bs) = crcSerial (serialBits s b 8) bs := rfl

theorem tbl_succ (i : Nat) : tbl (i + 1) = lfsr (tbl i) 64 := rfl

end Sys2Proof.Machine
end

