-- ==== Sys2Proof/Laws/Memory.lean ====
section
/-! SUPPORT. The laws of external memory: a read after a store, the canonical form kept, and what `MemRead` depends
on. -/

namespace Sys2Proof.Machine

@[simp] theorem Memory.read_nil (a : Nat) : Memory.read [] a = none := rfl

theorem Memory.read_cons (key : Nat) (b : Byte) (m : Memory) (a : Nat) :
    Memory.read ((key, b) :: m) a = if key = a then some b else Memory.read m a := rfl

/-- A store replaces the byte of its own address, if that is valid, and leaves every other address alone. -/
theorem Memory.read_store (m : Memory) (a x : Nat) (b : Byte) :
    (m.store a b).read x = if x = a ∧ m.valid a = true then some b else m.read x := by
  induction m with
  | nil => simp [Memory.store, Memory.valid]
  | cons c m ih =>
    obtain ⟨key, old⟩ := c
    by_cases hk : key = a
    · by_cases hx : x = a
      · simp [Memory.store, Memory.read_cons, Memory.valid, hk, hx]
      · simp [Memory.store, Memory.read_cons, hk, hx, Ne.symm hx]
    · by_cases hx : key = x
      · subst hx
        simp [Memory.store, Memory.read_cons, hk]
      · rw [Memory.store, if_neg hk, Memory.read_cons, Memory.read_cons, if_neg hx, if_neg hx, ih]
        simp only [Memory.valid, Memory.read_cons, if_neg hk]
        rfl

/-- A store lists the same addresses as before. -/
theorem Memory.store_keys (m : Memory) (a : Nat) (b : Byte) : (m.store a b).map Prod.fst = m.map Prod.fst := by
  induction m with
  | nil => rfl
  | cons c m ih =>
    obtain ⟨key, old⟩ := c
    by_cases hk : key = a <;> simp [Memory.store, hk, ih]

/-- Only the addresses of a memory decide its canonical form. -/
theorem Memory.wf_of_keys {m m' : Memory} (h : m'.map Prod.fst = m.map Prod.fst) (hm : m.wf) : m'.wf := by
  refine ⟨h ▸ hm.1, fun c hc => ?_⟩
  obtain ⟨d, hd, hdc⟩ := List.mem_map.mp (h ▸ List.mem_map_of_mem (f := Prod.fst) hc)
  exact hdc ▸ hm.2 d hd

theorem Memory.store_wf {m : Memory} (hm : m.wf) (a : Nat) (b : Byte) : (m.store a b).wf :=
  Memory.wf_of_keys (Memory.store_keys m a b) hm

theorem Memory.storeBytes_keys (bs : List Byte) :
    ∀ (m : Memory) (a : Nat), (m.storeBytes a bs).map Prod.fst = m.map Prod.fst := by
  induction bs with
  | nil => exact fun _ _ => rfl
  | cons b bs ih => exact fun m a => (ih _ _).trans (Memory.store_keys m a b)

theorem Memory.storeBytes_wf {m : Memory} (hm : m.wf) (a : Nat) (bs : List Byte) : (m.storeBytes a bs).wf :=
  Memory.wf_of_keys (Memory.storeBytes_keys bs m a) hm

/-- Only the addresses of a memory decide whether it excludes the window. -/
theorem Memory.excludesWindow_of_keys {m m' : Memory} {c : Config} (h : m'.map Prod.fst = m.map Prod.fst)
    (hm : m.excludesWindow c) : m'.excludesWindow c := by
  intro cell hc
  obtain ⟨d, hd, hdc⟩ := List.mem_map.mp (h ▸ List.mem_map_of_mem (f := Prod.fst) hc)
  exact hdc ▸ hm d hd

theorem Memory.storeBytes_excludesWindow {m : Memory} {c : Config} (hm : m.excludesWindow c) (a : Nat)
    (bs : List Byte) : (m.storeBytes a bs).excludesWindow c :=
  Memory.excludesWindow_of_keys (Memory.storeBytes_keys bs m a) hm

/-- A byte that can be read is listed. -/
theorem Memory.mem_of_read {m : Memory} {a : Nat} {b : Byte} (h : m.read a = some b) : (a, b) ∈ m := by
  induction m with
  | nil => cases h
  | cons cell m ih =>
    obtain ⟨key, old⟩ := cell
    rw [Memory.read_cons] at h
    split at h
    · cases h
      rename_i hk
      exact hk ▸ List.mem_cons_self
    · exact List.mem_cons_of_mem _ (ih h)

/-- Where memory excludes the window, no address of the window is valid (R65). -/
theorem Memory.read_window {m : Memory} {c : Config} (hm : m.excludesWindow c) {a : Nat}
    (ha : showsWindow c a = true) : m.read a = none := by
  cases h : m.read a with
  | none => rfl
  | some b => exact absurd (hm _ (Memory.mem_of_read h)) (by simp [ha])

/-- The bytes read depend on the addresses read only. -/
theorem Memory.readBytes_congr {m m' : Memory} {count : Nat} :
    ∀ {a : Nat}, (∀ x, a ≤ x → x < a + count → m'.read x = m.read x) → m'.readBytes a count = m.readBytes a count := by
  induction count with
  | zero => exact fun _ => rfl
  | succ count ih =>
    intro a h
    rw [Memory.readBytes, Memory.readBytes, h a (by omega) (by omega), ih fun x h1 h2 => h x (by omega) (by omega)]

theorem Memory.readBytes_length {m : Memory} {count : Nat} :
    ∀ {a : Nat} {bs : List Byte}, m.readBytes a count = some bs → bs.length = count := by
  induction count with
  | zero => intro a bs h; cases h; rfl
  | succ count ih =>
    intro a bs h
    rw [Memory.readBytes] at h
    split at h
    · cases h
      simpa using ih ‹_›
    · cases h

/-- Everything a one-byte read can do. -/
theorem memRead1_cases (m : Memory) (a : Addr) :
    (∃ b, m.read a.toNat = some b ∧ memRead1 m a = .ok b) ∨ m.read a.toNat = none ∧ memRead1 m a = .error .bus := by
  unfold memRead1
  cases h : m.read a.toNat with
  | none => exact .inr ⟨rfl, rfl⟩
  | some b => exact .inl ⟨b, rfl, rfl⟩

/-- Everything an eight-byte read can do. -/
theorem memRead8_cases (m : Memory) (a : Addr) :
    (∃ bs, aligned8 a = true ∧ m.readBytes a.toNat 8 = some bs ∧ memRead8 m a = .ok (wordOfBytes bs)) ∨
      (aligned8 a = true ∧ m.readBytes a.toNat 8 = none ∧ memRead8 m a = .error .bus) ∨
      (aligned8 a = false ∧ memRead8 m a = .error .align) := by
  unfold memRead8
  cases ha : aligned8 a with
  | false => exact .inr (.inr ⟨rfl, rfl⟩)
  | true =>
    cases h : m.readBytes a.toNat 8 with
    | none => exact .inr (.inl ⟨rfl, rfl, rfl⟩)
    | some bs => exact .inl ⟨bs, rfl, rfl, rfl⟩

/-- An address is a multiple of 8 exactly when its low three bits are zero. -/
theorem aligned8_iff (a : Addr) : aligned8 a = true ↔ a.toNat % 8 = 0 := by
  unfold aligned8
  rw [beq_iff_eq, ← BitVec.toNat_inj]
  simp [BitVec.extractLsb'_toNat]

theorem memRead1_congr {m m' : Memory} {a : Addr} (h : m'.read a.toNat = m.read a.toNat) :
    memRead1 m' a = memRead1 m a := by
  unfold memRead1
  rw [h]

theorem memRead8_congr {m m' : Memory} {a : Addr}
    (h : ∀ x, a.toNat ≤ x → x < a.toNat + 8 → m'.read x = m.read x) : memRead8 m' a = memRead8 m a := by
  unfold memRead8
  rw [Memory.readBytes_congr h]

end Sys2Proof.Machine
end

