-- ==== Sys2Proof/Laws/State.lean ====
section
/-! SUPPORT. What each shared update of the state leaves in each field, so that no proof unfolds a record update. -/

namespace Sys2Proof.Machine

variable (s : State)

@[simp] theorem raiseFault_acca (c : FaultCode) : (s.raiseFault c).acca = s.acca := rfl
@[simp] theorem raiseFault_accb (c : FaultCode) : (s.raiseFault c).accb = s.accb := rfl
@[simp] theorem raiseFault_ptr (c : FaultCode) : (s.raiseFault c).ptr = s.ptr := rfl
@[simp] theorem raiseFault_rem (c : FaultCode) : (s.raiseFault c).rem = s.rem := rfl
@[simp] theorem raiseFault_n (c : FaultCode) : (s.raiseFault c).n = s.n := rfl
@[simp] theorem raiseFault_ja (c : FaultCode) : (s.raiseFault c).ja = s.ja := rfl
@[simp] theorem raiseFault_jb (c : FaultCode) : (s.raiseFault c).jb = s.jb := rfl
@[simp] theorem raiseFault_k (c : FaultCode) : (s.raiseFault c).k = s.k := rfl
@[simp] theorem raiseFault_q (c : FaultCode) : (s.raiseFault c).q = s.q := rfl
@[simp] theorem raiseFault_result (c : FaultCode) : (s.raiseFault c).result = s.result := rfl
@[simp] theorem raiseFault_buf (c : FaultCode) : (s.raiseFault c).buf = s.buf := rfl
@[simp] theorem raiseFault_len (c : FaultCode) : (s.raiseFault c).len = s.len := rfl
@[simp] theorem raiseFault_seed (c : FaultCode) : (s.raiseFault c).seed = s.seed := rfl
@[simp] theorem raiseFault_phase (c : FaultCode) : (s.raiseFault c).phase = .fault := rfl
@[simp] theorem raiseFault_busy (c : FaultCode) : (s.raiseFault c).busy = false := rfl
@[simp] theorem raiseFault_done (c : FaultCode) : (s.raiseFault c).done = s.done := rfl
@[simp] theorem raiseFault_fault (c : FaultCode) : (s.raiseFault c).fault = true := rfl
@[simp] theorem raiseFault_fcode (c : FaultCode) : (s.raiseFault c).fcode = some c := rfl
@[simp] theorem raiseFault_cerr (c : FaultCode) : (s.raiseFault c).cerr = s.cerr := rfl
@[simp] theorem raiseFault_cfg (c : FaultCode) : (s.raiseFault c).cfg = s.cfg := rfl
@[simp] theorem raiseFault_mem (c : FaultCode) : (s.raiseFault c).mem = s.mem := rfl
@[simp] theorem raiseFault_schedule (c : FaultCode) : (s.raiseFault c).schedule = s.schedule := rfl
@[simp] theorem raiseFault_replies (c : FaultCode) : (s.raiseFault c).replies = s.replies := rfl

@[simp] theorem dropAccess_acca : (s.dropAccess).acca = s.acca := rfl
@[simp] theorem dropAccess_accb : (s.dropAccess).accb = s.accb := rfl
@[simp] theorem dropAccess_ptr : (s.dropAccess).ptr = s.ptr := rfl
@[simp] theorem dropAccess_rem : (s.dropAccess).rem = s.rem := rfl
@[simp] theorem dropAccess_n : (s.dropAccess).n = s.n := rfl
@[simp] theorem dropAccess_ja : (s.dropAccess).ja = s.ja := rfl
@[simp] theorem dropAccess_jb : (s.dropAccess).jb = s.jb := rfl
@[simp] theorem dropAccess_k : (s.dropAccess).k = s.k := rfl
@[simp] theorem dropAccess_q : (s.dropAccess).q = s.q := rfl
@[simp] theorem dropAccess_result : (s.dropAccess).result = s.result := rfl
@[simp] theorem dropAccess_buf : (s.dropAccess).buf = s.buf := rfl
@[simp] theorem dropAccess_len : (s.dropAccess).len = s.len := rfl
@[simp] theorem dropAccess_seed : (s.dropAccess).seed = s.seed := rfl
@[simp] theorem dropAccess_phase : (s.dropAccess).phase = s.phase := rfl
@[simp] theorem dropAccess_busy : (s.dropAccess).busy = s.busy := rfl
@[simp] theorem dropAccess_done : (s.dropAccess).done = s.done := rfl
@[simp] theorem dropAccess_fault : (s.dropAccess).fault = s.fault := rfl
@[simp] theorem dropAccess_fcode : (s.dropAccess).fcode = s.fcode := rfl
@[simp] theorem dropAccess_cerr : (s.dropAccess).cerr = true := rfl
@[simp] theorem dropAccess_cfg : (s.dropAccess).cfg = s.cfg := rfl
@[simp] theorem dropAccess_mem : (s.dropAccess).mem = s.mem := rfl
@[simp] theorem dropAccess_schedule : (s.dropAccess).schedule = s.schedule := rfl
@[simp] theorem dropAccess_replies : (s.dropAccess).replies = s.replies := rfl

@[simp] theorem resetBlock_acca : (s.resetBlock).acca = 0 := rfl
@[simp] theorem resetBlock_accb : (s.resetBlock).accb = 0 := rfl
@[simp] theorem resetBlock_ptr : (s.resetBlock).ptr = 0 := rfl
@[simp] theorem resetBlock_rem : (s.resetBlock).rem = 0 := rfl
@[simp] theorem resetBlock_n : (s.resetBlock).n = 0 := rfl
@[simp] theorem resetBlock_ja : (s.resetBlock).ja = 0 := rfl
@[simp] theorem resetBlock_jb : (s.resetBlock).jb = 0 := rfl
@[simp] theorem resetBlock_k : (s.resetBlock).k = 0 := rfl
@[simp] theorem resetBlock_q : (s.resetBlock).q = 0 := rfl
@[simp] theorem resetBlock_result : (s.resetBlock).result = 0 := rfl
@[simp] theorem resetBlock_buf : (s.resetBlock).buf = 0 := rfl
@[simp] theorem resetBlock_len : (s.resetBlock).len = 0 := rfl
@[simp] theorem resetBlock_seed : (s.resetBlock).seed = 0 := rfl
@[simp] theorem resetBlock_phase : (s.resetBlock).phase = .idle := rfl
@[simp] theorem resetBlock_busy : (s.resetBlock).busy = false := rfl
@[simp] theorem resetBlock_done : (s.resetBlock).done = false := rfl
@[simp] theorem resetBlock_fault : (s.resetBlock).fault = false := rfl
@[simp] theorem resetBlock_fcode : (s.resetBlock).fcode = none := rfl
@[simp] theorem resetBlock_cerr : (s.resetBlock).cerr = false := rfl
@[simp] theorem resetBlock_cfg : (s.resetBlock).cfg = s.cfg := rfl
@[simp] theorem resetBlock_mem : (s.resetBlock).mem = s.mem := rfl
@[simp] theorem resetBlock_schedule : (s.resetBlock).schedule = s.schedule := rfl
@[simp] theorem resetBlock_replies : (s.resetBlock).replies = s.replies := rfl

@[simp] theorem gotoPhase_acca (p : Phase) : (s.gotoPhase p).acca = s.acca := rfl
@[simp] theorem gotoPhase_accb (p : Phase) : (s.gotoPhase p).accb = s.accb := rfl
@[simp] theorem gotoPhase_ptr (p : Phase) : (s.gotoPhase p).ptr = s.ptr := rfl
@[simp] theorem gotoPhase_rem (p : Phase) : (s.gotoPhase p).rem = s.rem := rfl
@[simp] theorem gotoPhase_n (p : Phase) : (s.gotoPhase p).n = s.n := rfl
@[simp] theorem gotoPhase_ja (p : Phase) : (s.gotoPhase p).ja = s.ja := rfl
@[simp] theorem gotoPhase_jb (p : Phase) : (s.gotoPhase p).jb = s.jb := rfl
@[simp] theorem gotoPhase_k (p : Phase) : (s.gotoPhase p).k = s.k := rfl
@[simp] theorem gotoPhase_q (p : Phase) : (s.gotoPhase p).q = s.q := rfl
@[simp] theorem gotoPhase_result (p : Phase) : (s.gotoPhase p).result = s.result := rfl
@[simp] theorem gotoPhase_buf (p : Phase) : (s.gotoPhase p).buf = s.buf := rfl
@[simp] theorem gotoPhase_len (p : Phase) : (s.gotoPhase p).len = s.len := rfl
@[simp] theorem gotoPhase_seed (p : Phase) : (s.gotoPhase p).seed = s.seed := rfl
@[simp] theorem gotoPhase_phase (p : Phase) : (s.gotoPhase p).phase = p := rfl
@[simp] theorem gotoPhase_busy (p : Phase) : (s.gotoPhase p).busy = s.busy := rfl
@[simp] theorem gotoPhase_done (p : Phase) : (s.gotoPhase p).done = s.done := rfl
@[simp] theorem gotoPhase_fault (p : Phase) : (s.gotoPhase p).fault = s.fault := rfl
@[simp] theorem gotoPhase_fcode (p : Phase) : (s.gotoPhase p).fcode = s.fcode := rfl
@[simp] theorem gotoPhase_cerr (p : Phase) : (s.gotoPhase p).cerr = s.cerr := rfl
@[simp] theorem gotoPhase_cfg (p : Phase) : (s.gotoPhase p).cfg = s.cfg := rfl
@[simp] theorem gotoPhase_mem (p : Phase) : (s.gotoPhase p).mem = s.mem := rfl
@[simp] theorem gotoPhase_schedule (p : Phase) : (s.gotoPhase p).schedule = s.schedule := rfl
@[simp] theorem gotoPhase_replies (p : Phase) : (s.gotoPhase p).replies = s.replies := rfl

@[simp] theorem endRun_acca : (s.endRun).acca = s.acca := rfl
@[simp] theorem endRun_accb : (s.endRun).accb = s.accb := rfl
@[simp] theorem endRun_ptr : (s.endRun).ptr = s.ptr := rfl
@[simp] theorem endRun_rem : (s.endRun).rem = s.rem := rfl
@[simp] theorem endRun_n : (s.endRun).n = s.n := rfl
@[simp] theorem endRun_ja : (s.endRun).ja = s.ja := rfl
@[simp] theorem endRun_jb : (s.endRun).jb = s.jb := rfl
@[simp] theorem endRun_k : (s.endRun).k = s.k := rfl
@[simp] theorem endRun_q : (s.endRun).q = s.q := rfl
@[simp] theorem endRun_result : (s.endRun).result = s.result := rfl
@[simp] theorem endRun_buf : (s.endRun).buf = s.buf := rfl
@[simp] theorem endRun_len : (s.endRun).len = s.len := rfl
@[simp] theorem endRun_seed : (s.endRun).seed = s.seed := rfl
@[simp] theorem endRun_phase : (s.endRun).phase = .idle := rfl
@[simp] theorem endRun_busy : (s.endRun).busy = false := rfl
@[simp] theorem endRun_done : (s.endRun).done = s.done := rfl
@[simp] theorem endRun_fault : (s.endRun).fault = s.fault := rfl
@[simp] theorem endRun_fcode : (s.endRun).fcode = s.fcode := rfl
@[simp] theorem endRun_cerr : (s.endRun).cerr = s.cerr := rfl
@[simp] theorem endRun_cfg : (s.endRun).cfg = s.cfg := rfl
@[simp] theorem endRun_mem : (s.endRun).mem = s.mem := rfl
@[simp] theorem endRun_schedule : (s.endRun).schedule = s.schedule := rfl
@[simp] theorem endRun_replies : (s.endRun).replies = s.replies := rfl

@[simp] theorem withSchedule_acca (ms : List Move) : (s.withSchedule ms).acca = s.acca := rfl
@[simp] theorem withSchedule_accb (ms : List Move) : (s.withSchedule ms).accb = s.accb := rfl
@[simp] theorem withSchedule_ptr (ms : List Move) : (s.withSchedule ms).ptr = s.ptr := rfl
@[simp] theorem withSchedule_rem (ms : List Move) : (s.withSchedule ms).rem = s.rem := rfl
@[simp] theorem withSchedule_n (ms : List Move) : (s.withSchedule ms).n = s.n := rfl
@[simp] theorem withSchedule_ja (ms : List Move) : (s.withSchedule ms).ja = s.ja := rfl
@[simp] theorem withSchedule_jb (ms : List Move) : (s.withSchedule ms).jb = s.jb := rfl
@[simp] theorem withSchedule_k (ms : List Move) : (s.withSchedule ms).k = s.k := rfl
@[simp] theorem withSchedule_q (ms : List Move) : (s.withSchedule ms).q = s.q := rfl
@[simp] theorem withSchedule_result (ms : List Move) : (s.withSchedule ms).result = s.result := rfl
@[simp] theorem withSchedule_buf (ms : List Move) : (s.withSchedule ms).buf = s.buf := rfl
@[simp] theorem withSchedule_len (ms : List Move) : (s.withSchedule ms).len = s.len := rfl
@[simp] theorem withSchedule_seed (ms : List Move) : (s.withSchedule ms).seed = s.seed := rfl
@[simp] theorem withSchedule_phase (ms : List Move) : (s.withSchedule ms).phase = s.phase := rfl
@[simp] theorem withSchedule_busy (ms : List Move) : (s.withSchedule ms).busy = s.busy := rfl
@[simp] theorem withSchedule_done (ms : List Move) : (s.withSchedule ms).done = s.done := rfl
@[simp] theorem withSchedule_fault (ms : List Move) : (s.withSchedule ms).fault = s.fault := rfl
@[simp] theorem withSchedule_fcode (ms : List Move) : (s.withSchedule ms).fcode = s.fcode := rfl
@[simp] theorem withSchedule_cerr (ms : List Move) : (s.withSchedule ms).cerr = s.cerr := rfl
@[simp] theorem withSchedule_cfg (ms : List Move) : (s.withSchedule ms).cfg = s.cfg := rfl
@[simp] theorem withSchedule_mem (ms : List Move) : (s.withSchedule ms).mem = s.mem := rfl
@[simp] theorem withSchedule_schedule (ms : List Move) : (s.withSchedule ms).schedule = ms := rfl
@[simp] theorem withSchedule_replies (ms : List Move) : (s.withSchedule ms).replies = s.replies := rfl

@[simp] theorem reply_acca (v : Word32) : (s.reply v).acca = s.acca := rfl
@[simp] theorem reply_accb (v : Word32) : (s.reply v).accb = s.accb := rfl
@[simp] theorem reply_ptr (v : Word32) : (s.reply v).ptr = s.ptr := rfl
@[simp] theorem reply_rem (v : Word32) : (s.reply v).rem = s.rem := rfl
@[simp] theorem reply_n (v : Word32) : (s.reply v).n = s.n := rfl
@[simp] theorem reply_ja (v : Word32) : (s.reply v).ja = s.ja := rfl
@[simp] theorem reply_jb (v : Word32) : (s.reply v).jb = s.jb := rfl
@[simp] theorem reply_k (v : Word32) : (s.reply v).k = s.k := rfl
@[simp] theorem reply_q (v : Word32) : (s.reply v).q = s.q := rfl
@[simp] theorem reply_result (v : Word32) : (s.reply v).result = s.result := rfl
@[simp] theorem reply_buf (v : Word32) : (s.reply v).buf = s.buf := rfl
@[simp] theorem reply_len (v : Word32) : (s.reply v).len = s.len := rfl
@[simp] theorem reply_seed (v : Word32) : (s.reply v).seed = s.seed := rfl
@[simp] theorem reply_phase (v : Word32) : (s.reply v).phase = s.phase := rfl
@[simp] theorem reply_busy (v : Word32) : (s.reply v).busy = s.busy := rfl
@[simp] theorem reply_done (v : Word32) : (s.reply v).done = s.done := rfl
@[simp] theorem reply_fault (v : Word32) : (s.reply v).fault = s.fault := rfl
@[simp] theorem reply_fcode (v : Word32) : (s.reply v).fcode = s.fcode := rfl
@[simp] theorem reply_cerr (v : Word32) : (s.reply v).cerr = s.cerr := rfl
@[simp] theorem reply_cfg (v : Word32) : (s.reply v).cfg = s.cfg := rfl
@[simp] theorem reply_mem (v : Word32) : (s.reply v).mem = s.mem := rfl
@[simp] theorem reply_schedule (v : Word32) : (s.reply v).schedule = s.schedule := rfl
@[simp] theorem reply_replies (v : Word32) : (s.reply v).replies = v :: s.replies := rfl

end Sys2Proof.Machine
end

