-- ==== Sys2Proof/Laws/Exec.lean ====
section
/-! SUPPORT. Once for each operation with checks: everything it can do. Callers take these cases and do not unfold
the meanings. -/

namespace Sys2Proof.Machine

/-- A completed operation is its writes or the fault entry. -/
theorem complete_cases {s t : State} {r : Except FaultCode State} (h : complete s r = .next t) :
    r = .ok t ∨ ∃ c, r = .error c ∧ t = s.raiseFault c := by
  cases r with
  | ok u => cases h; exact .inl rfl
  | error c => cases h; exact .inr ⟨c, rfl, rfl⟩

/-- An operation always takes a next state: its writes, or the fault entry (R141). -/
theorem complete_next (s : State) (r : Except FaultCode State) : ∃ t, complete s r = .next t := by
  cases r with
  | ok u => exact ⟨u, rfl⟩
  | error c => exact ⟨_, rfl⟩

theorem execInit_cases {s t : State} (h : exec .init s = .next t) :
    (s.outOfRange = true ∧ t = s.raiseFault .range) ∨
      (s.outOfRange = false ∧ t = { s with
        acca := zext64 s.seed, accb := 0, ptr := s.buf, rem := s.len, n := 0, ja := 0, jb := 0, k := 0, q := 0,
        done := false }) := by
  simp only [exec, execInit] at h
  cases hr : s.outOfRange <;> simp only [hr, Bool.false_eq_true, if_true, if_false, complete] at h <;> cases h
  · exact .inr ⟨rfl, rfl⟩
  · exact .inl ⟨rfl, rfl⟩

theorem execS8_cases {s t : State} (h : exec .s8 s = .next t) :
    (s.n ≠ 0 ∧ t = s.raiseFault .seq) ∨
      (s.n = 0 ∧ s.rem = 0 ∧ t = s.raiseFault .under) ∨
      (s.n = 0 ∧ s.rem ≠ 0 ∧ s.mem.read s.ptr.toNat = none ∧ t = s.raiseFault .bus) ∨
      ∃ b, s.n = 0 ∧ s.rem ≠ 0 ∧ s.mem.read s.ptr.toNat = some b ∧
        t = { s with acca := zext64 (step8 (lo32 s.acca) b), ptr := s.ptr + 1, rem := s.rem - 1 } := by
  simp only [exec, execS8] at h
  by_cases hn : s.n = 0
  · by_cases hr : s.rem = 0
    · rw [if_neg (not_not.mpr hn), if_pos hr] at h
      cases h
      exact .inr (.inl ⟨hn, hr, rfl⟩)
    · rw [if_neg (not_not.mpr hn), if_neg hr] at h
      obtain ⟨b, hb, hm⟩ | ⟨hb, hm⟩ := memRead1_cases s.mem s.ptr
      · simp only [hm, complete] at h
        cases h
        exact .inr (.inr (.inr ⟨b, hn, hr, hb, rfl⟩))
      · simp only [hm, complete] at h
        cases h
        exact .inr (.inr (.inl ⟨hn, hr, hb, rfl⟩))
  · rw [if_pos hn] at h
    cases h
    exact .inl ⟨hn, rfl⟩

theorem execS64_cases {s t : State} (h : exec .s64 s = .next t) :
    (s.n ≠ 0 ∧ t = s.raiseFault .seq) ∨
      (s.n = 0 ∧ s.rem.toNat < 8 ∧ t = s.raiseFault .under) ∨
      (s.n = 0 ∧ 8 ≤ s.rem.toNat ∧ aligned8 s.ptr = false ∧ t = s.raiseFault .align) ∨
      (s.n = 0 ∧ 8 ≤ s.rem.toNat ∧ aligned8 s.ptr = true ∧ memRead8 s.mem s.ptr = .error .bus ∧
        t = s.raiseFault .bus) ∨
      ∃ w, s.n = 0 ∧ 8 ≤ s.rem.toNat ∧ aligned8 s.ptr = true ∧ memRead8 s.mem s.ptr = .ok w ∧
        t = { s with acca := step64 s.acca w, ptr := s.ptr + 8, rem := s.rem - 8 } := by
  simp only [exec, execS64] at h
  by_cases hn : s.n = 0
  · by_cases hr : s.rem.toNat < 8
    · rw [if_neg (not_not.mpr hn), if_pos hr] at h
      cases h
      exact .inr (.inl ⟨hn, hr, rfl⟩)
    · rw [if_neg (not_not.mpr hn), if_neg hr] at h
      obtain ⟨bs, ha, -, hm⟩ | ⟨ha, -, hm⟩ | ⟨ha, -⟩ := memRead8_cases s.mem s.ptr
      · simp only [ha, hm, if_true, complete] at h
        cases h
        exact .inr (.inr (.inr (.inr ⟨_, hn, by omega, ha, hm, rfl⟩)))
      · simp only [ha, hm, if_true, complete] at h
        cases h
        exact .inr (.inr (.inr (.inl ⟨hn, by omega, ha, hm, rfl⟩)))
      · simp only [ha, Bool.false_eq_true, if_false, complete] at h
        cases h
        exact .inr (.inr (.inl ⟨hn, by omega, ha, rfl⟩))
  · rw [if_pos hn] at h
    cases h
    exact .inl ⟨hn, rfl⟩

theorem execFset_cases {s t : State} (h : exec .fset s = .next t) :
    (s.n ≠ 0 ∧ t = s.raiseFault .seq) ∨
      (s.n = 0 ∧ s.rem.toNat < 16 ∧ t = s.raiseFault .under) ∨
      (s.n = 0 ∧ 16 ≤ s.rem.toNat ∧ aligned8 s.ptr = false ∧ t = s.raiseFault .align) ∨
      (s.n = 0 ∧ 16 ≤ s.rem.toNat ∧ aligned8 s.ptr = true ∧
        t = { s with n := s.blockCount, ja := 0, jb := 0, accb := 0 }) := by
  simp only [exec, execFset] at h
  by_cases hn : s.n = 0
  · by_cases hr : s.rem.toNat < 16
    · rw [if_neg (not_not.mpr hn), if_pos hr] at h
      cases h
      exact .inr (.inl ⟨hn, hr, rfl⟩)
    · rw [if_neg (not_not.mpr hn), if_neg hr] at h
      cases ha : aligned8 s.ptr <;>
        simp only [ha, Bool.false_eq_true, if_true, if_false, complete] at h <;> cases h
      · exact .inr (.inr (.inl ⟨hn, by omega, rfl, rfl⟩))
      · exact .inr (.inr (.inr ⟨hn, by omega, rfl, rfl⟩))
  · rw [if_pos hn] at h
    cases h
    exact .inl ⟨hn, rfl⟩

/-- The shape SA, SB and MRG share: a protocol check, one eight-byte read, the writes. -/
theorem readStep_cases {s t : State} {bad : Prop} [Decidable bad] {a : Addr} {write : Word64 → State}
    (h : complete s (if bad then .error .seq else match memRead8 s.mem a with
      | .error c => .error c
      | .ok w => .ok (write w)) = .next t) :
    (bad ∧ t = s.raiseFault .seq) ∨
      (∃ c, ¬bad ∧ memRead8 s.mem a = .error c ∧ t = s.raiseFault c) ∨
      ∃ w, ¬bad ∧ memRead8 s.mem a = .ok w ∧ t = write w := by
  by_cases hb : bad
  · simp only [hb, if_true, complete] at h
    cases h
    exact .inl ⟨hb, rfl⟩
  · simp only [hb, if_false] at h
    cases hm : memRead8 s.mem a with
    | error c =>
      simp only [hm, complete] at h
      cases h
      exact .inr (.inl ⟨c, hb, rfl, rfl⟩)
    | ok w =>
      simp only [hm, complete] at h
      cases h
      exact .inr (.inr ⟨w, hb, rfl, rfl⟩)

theorem execSa_cases {s t : State} (h : exec .sa s = .next t) :
    ((s.n = 0 ∨ s.n.toNat ≤ s.ja.toNat) ∧ t = s.raiseFault .seq) ∨
      (∃ c, ¬(s.n = 0 ∨ s.n.toNat ≤ s.ja.toNat) ∧ memRead8 s.mem s.laneAAddr = .error c ∧ t = s.raiseFault c) ∨
      ∃ w, ¬(s.n = 0 ∨ s.n.toNat ≤ s.ja.toNat) ∧ memRead8 s.mem s.laneAAddr = .ok w ∧
        t = { s with acca := step64 s.acca w, ja := s.ja + 1 } :=
  readStep_cases (write := fun w => { s with acca := step64 s.acca w, ja := s.ja + 1 }) h

theorem execSb_cases {s t : State} (h : exec .sb s = .next t) :
    ((s.n = 0 ∨ s.n.toNat ≤ s.jb.toNat + 1) ∧ t = s.raiseFault .seq) ∨
      (∃ c, ¬(s.n = 0 ∨ s.n.toNat ≤ s.jb.toNat + 1) ∧ memRead8 s.mem s.laneBAddr = .error c ∧
        t = s.raiseFault c) ∨
      ∃ w, ¬(s.n = 0 ∨ s.n.toNat ≤ s.jb.toNat + 1) ∧ memRead8 s.mem s.laneBAddr = .ok w ∧
        t = { s with accb := step64 s.accb w, jb := s.jb + 1 } :=
  readStep_cases (write := fun w => { s with accb := step64 s.accb w, jb := s.jb + 1 }) h

theorem execMrg_cases {s t : State} (h : exec .mrg s = .next t) :
    ((s.n = 0 ∨ s.ja ≠ s.n ∨ s.jb.toNat ≠ s.n.toNat - 1) ∧ t = s.raiseFault .seq) ∨
      (∃ c, ¬(s.n = 0 ∨ s.ja ≠ s.n ∨ s.jb.toNat ≠ s.n.toNat - 1) ∧ memRead8 s.mem s.laneBAddr = .error c ∧
        t = s.raiseFault c) ∨
      ∃ w, ¬(s.n = 0 ∨ s.ja ≠ s.n ∨ s.jb.toNat ≠ s.n.toNat - 1) ∧ memRead8 s.mem s.laneBAddr = .ok w ∧
        t = { s with acca := step64 s.accb (s.q ^^^ w), jb := s.jb + 1 } :=
  readStep_cases (write := fun w => { s with acca := step64 s.accb (s.q ^^^ w), jb := s.jb + 1 }) h

/-- Everything a ROM read can do. -/
theorem romRead_cases (c : Config) (i : Nat) :
    (i < c.romDepth ∧ romRead c i = .ok (tbl i)) ∨ (c.romDepth ≤ i ∧ romRead c i = .error .rom) := by
  unfold romRead
  by_cases h : i < c.romDepth
  · exact .inl ⟨h, if_pos h⟩
  · exact .inr ⟨by omega, if_neg h⟩

theorem execLut_cases {s t : State} (h : exec .lut s = .next t) :
    (s.n = 0 ∧ t = s.raiseFault .seq) ∨
      (s.n ≠ 0 ∧ s.cfg.romDepth ≤ s.n.toNat - 1 ∧ t = s.raiseFault .rom) ∨
      (s.n ≠ 0 ∧ s.n.toNat - 1 < s.cfg.romDepth ∧ t = { s with k := tbl (s.n.toNat - 1) }) := by
  simp only [exec, execLut] at h
  by_cases hn : s.n = 0
  · rw [if_pos hn] at h
    cases h
    exact .inl ⟨hn, rfl⟩
  · rw [if_neg hn] at h
    obtain ⟨hi, hm⟩ | ⟨hi, hm⟩ := romRead_cases s.cfg (s.n.toNat - 1) <;> simp only [hm, complete] at h <;> cases h
    · exact .inr (.inr ⟨hn, hi, rfl⟩)
    · exact .inr (.inl ⟨hn, hi, rfl⟩)

theorem execLuti_cases {s t : State} {index : Nat} (h : exec (.luti index) s = .next t) :
    (s.cfg.romDepth ≤ index ∧ t = s.raiseFault .rom) ∨
      (index < s.cfg.romDepth ∧ t = { s with k := tbl index }) := by
  simp only [exec, execLuti] at h
  obtain ⟨hi, hm⟩ | ⟨hi, hm⟩ := romRead_cases s.cfg index <;> simp only [hm, complete] at h <;> cases h
  · exact .inr ⟨hi, rfl⟩
  · exact .inl ⟨hi, rfl⟩

theorem execAdv_cases {s t : State} (h : exec .adv s = .next t) :
    ((s.n = 0 ∨ s.ja ≠ s.n ∨ s.jb ≠ s.n) ∧ t = s.raiseFault .seq) ∨
      (¬(s.n = 0 ∨ s.ja ≠ s.n ∨ s.jb ≠ s.n) ∧ t = { s with
        ptr := s.ptr + s.blockBytes, rem := s.rem - s.blockBytes.setWidth 32, n := 0, ja := 0, jb := 0,
        accb := 0 }) := by
  simp only [exec, execAdv] at h
  by_cases hb : s.n = 0 ∨ s.ja ≠ s.n ∨ s.jb ≠ s.n
  · rw [if_pos hb] at h
    cases h
    exact .inl ⟨hb, rfl⟩
  · rw [if_neg hb] at h
    cases h
    exact .inr ⟨hb, rfl⟩

/-- Every operation takes a next state in every state: the model stops on none (R121, R141). -/
theorem exec_next (i : Instr) (s : State) : ∃ t, exec i s = .next t := by
  cases i
  case nop | s8i | fin | clm | crc | srst => exact ⟨_, rfl⟩
  all_goals exact complete_next s _

end Sys2Proof.Machine
end

