-- ==== Sys2Proof/Laws/PerInstr.lean ====
section
/-! SUPPORT. The per-instruction families of LAWS.json. -/

namespace Sys2Proof.Laws.EncodeFields

/-- The word of an operation holds its opcode in bits 7:0, its immediate in bits 15:8 and zeros above (R74, R75). -/
def Statement (i : Instr) : Prop :=
  opcodeField (encode i) = opcodeOf i ∧ imm8Field (encode i) = immediateOf i ∧ zeroFieldI (encode i) = 0#16

/-- Two fields put together are taken apart again by the decoder's field functions. -/
theorem fields_of_word (imm op : BitVec 8) :
    opcodeField (imm.setWidth 32 <<< 8 ||| op.setWidth 32) = op ∧
      imm8Field (imm.setWidth 32 <<< 8 ||| op.setWidth 32) = imm ∧
      zeroFieldI (imm.setWidth 32 <<< 8 ||| op.setWidth 32) = 0#16 := by
  refine ⟨?_, ?_, ?_⟩ <;> ext i hi
  · simp [opcodeField, show i < 32 by omega, hi]
  · simp [imm8Field, show 8 + i < 32 by omega, hi]
  · simp [zeroFieldI, BitVec.getLsbD_of_ge imm (16 + i - 8) (by omega), BitVec.getLsbD_of_ge op (16 + i) (by omega)]

theorem nop : Statement .nop := fields_of_word _ _
theorem init : Statement .init := fields_of_word _ _
theorem s8 : Statement .s8 := fields_of_word _ _
theorem s64 : Statement .s64 := fields_of_word _ _
theorem s8i (byte : Byte) : Statement (.s8i byte) := fields_of_word _ _
theorem fin : Statement .fin := fields_of_word _ _
theorem fset : Statement .fset := fields_of_word _ _
theorem sa : Statement .sa := fields_of_word _ _
theorem sb : Statement .sb := fields_of_word _ _
theorem lut : Statement .lut := fields_of_word _ _
theorem luti (index : Nat) : Statement (.luti index) := fields_of_word _ _
theorem clm : Statement .clm := fields_of_word _ _
theorem mrg : Statement .mrg := fields_of_word _ _
theorem adv : Statement .adv := fields_of_word _ _
theorem crc : Statement .crc := fields_of_word _ _
theorem srst : Statement .srst := fields_of_word _ _

end Sys2Proof.Laws.EncodeFields
end

