-- ==== Sys2Proof/Machine/Script.lean ====
section
/-! DEFINITION. The listings of 30_encoding.md R83 to R86: host steps, the pseudo-operations as the host steps they
expand to, and a host that works through them. "A program for this block is a list of host steps" (R86). -/

namespace Sys2Proof.Machine

/-- The offset of a register of the window: its place in the table of R41. -/
def offsetOf (r : HostReg) : Offset := Fin.ofNat 32 (windowRegs.idxOf r)

/-- One line of a listing. -/
inductive Line where
  /-- `wr <REG>, v` (R84). -/
  | wr (r : HostReg) (v : Word32)
  /-- `wr <REG>, r` where `r` is the value the last `rd` has returned, as `crc32c.cont` uses it (R85). -/
  | wrRead (r : HostReg)
  /-- `rd <REG>` (R84). -/
  | rd (r : HostReg)
  /-- A bare operation line `OP`, which stands for `wr CMD, <word of OP>` (R83, R84). -/
  | op (i : Instr)
  /-- `poll`: "repeat `rd STATUS` until bit 0 (BUSY) = 0" (R85). -/
  | poll
  deriving DecidableEq, Repr

/-! ## The expansions -/

/-- `wr BUF, v` with a 64-bit `v` (R84). -/
def wrBuf (v : Addr) : List Line := [.wr .bufLo (lo32 v), .wr .bufHi (hi32 v)]

/-- The lines `crc32c` and `crc32c.cont` share; they differ in the line that writes SEED. -/
def crcLines (buf : Addr) (len : Word32) (seed : Line) : List Line :=
  wrBuf buf ++ [.wr .len len, seed, .op .crc, .poll, .rd .result]

/-- `crc32c buf, len, seed` (R85). -/
def crc32c (buf : Addr) (len seed : Word32) : List Line := crcLines buf len (.wr .seed seed)

/-- `crc32c.cont buf, len`: `rd RESULT -> r ; crc32c buf, len, r` (R85). No line between reads anything else. -/
def crc32cCont (buf : Addr) (len : Word32) : List Line := .rd .result :: crcLines buf len (.wrRead .seed)

/-- SA and SB alternately, from SA to SA, for a fold of `n + 1` blocks (R85, R127). -/
def laneOps : Nat → List Instr
  | 0 => [.sa]
  | n + 1 => .sa :: .sb :: laneOps n

/-- `fold`, one bulk-loop iteration by hand, for a fold of `n` blocks (R85). DESIGN CHOICE (log entry 19): for `n = 0`,
where FSET opens no fold, these are the lines of a fold of one block. -/
def foldLines (n : Nat) : List Line := (.fset :: (laneOps (n - 1) ++ [.lut, .clm, .mrg, .adv])).map .op

/-- `fold` where it stands in a listing: its block count is the one FSET is going to choose there (R85, R111). DESIGN
CHOICE (log entry 19): the expansion is fixed there, and is written out also where FSET is going to fault or be dropped. -/
def fold (s : State) : List Line := foldLines s.blockCount.toNat

/-- `step8 b` (R85). -/
def step8Line (b : Byte) : Line := .op (.s8i b)

/-! ## The host that works through a listing -/

/-- The value the last host read has returned. -/
def State.lastRead (s : State) : Word32 := s.replies.headD 0

/-- The move a line makes (R83, R84, R85). -/
def lineMove (l : Line) (s : State) : Move :=
  match l with
  | .wr r v => .hostWrite (offsetOf r) v
  | .wrRead r => .hostWrite (offsetOf r) s.lastRead
  | .rd r => .hostRead (offsetOf r)
  | .op i => .hostWrite cmdOffset (encode i)
  | .poll => .hostRead (offsetOf .status)

/-- Whether a value read from STATUS ends `poll` (R85). -/
def pollEnds (status : Word32) : Bool := !status.getLsbD 0

/-- The lines left after a line's move has led to the state `t`: `poll` is repeated until the STATUS it has read ends
it (R85). -/
def linesLeft (l : Line) (rest : List Line) (t : State) : List Line :=
  match l with
  | .poll => if pollEnds t.lastRead then rest else .poll :: rest
  | .wr _ _ | .wrRead _ | .rd _ | .op _ => rest

/-- The moves of a list, one after the other. -/
def takeMoves : List Move → State → Host.Outcome State Fault Refusal
  | [], s => .next s
  | m :: ms, s =>
    match takeMove m s with
    | .next t => takeMoves ms t
    | .fault r => .fault r
    | .refused r => .refused r

/-- The host works through a listing, interleaved with the other agents (R67): before each of its moves they make the
moves of the next list of `others`, and the run shown ends with these lists. The answer is the lines not yet done and
the state. -/
def runListing : List (List Move) → List Line → State → Host.Outcome (List Line × State) Fault Refusal
  | others :: more, l :: rest, s =>
    match takeMoves others s with
    | .next u =>
      match takeMove (lineMove l u) u with
      | .next t => runListing more (linesLeft l rest t) t
      | .fault r => .fault r
      | .refused r => .refused r
    | .fault r => .fault r
    | .refused r => .refused r
  | [], lines, s => .next (lines, s)
  | _ :: _, [], s => .next ([], s)

end Sys2Proof.Machine
end

