-- ==== Sys2Proof/Laws/Script.lean ====
section
/-! SUPPORT. What the lines of a listing do: the move of a line is a step of the machine, and `poll` is repeated exactly
while BUSY = 1. -/

namespace Sys2Proof.Machine

/-- A step of the machine whose next move is a line's is that line's move. -/
theorem step_lineMove (l : Line) (s : State) (ms : List Move) :
    step (s.withSchedule (lineMove l s :: ms)) = takeMove (lineMove l s) (s.withSchedule ms) := rfl

@[simp] theorem lastRead_reply (s : State) (v : Word32) : (s.reply v).lastRead = v := rfl

/-- Bit 0 of STATUS is BUSY (R43). -/
@[simp] theorem pollEnds_statusWord (s : State) : pollEnds s.statusWord = !s.busy := by
  unfold pollEnds State.statusWord
  rw [BitVec.getLsbD_append]
  simp

/-- The move of `poll` reads STATUS and does nothing else. -/
theorem takeMove_poll (s : State) : takeMove (lineMove .poll s) s = .next (s.reply s.statusWord) := rfl

/-- `poll` is repeated while BUSY = 1 and ends when the STATUS read has BUSY = 0 (R85). -/
theorem linesLeft_poll (rest : List Line) (s : State) :
    linesLeft .poll rest (s.reply s.statusWord) = if s.busy then .poll :: rest else rest := by
  cases h : s.busy <;> simp [linesLeft, h]

/-- `crc32c.cont` writes to SEED the value its `rd RESULT` has returned (R85). -/
theorem lineMove_wrRead_reply (r : HostReg) (s : State) (v : Word32) :
    lineMove (.wrRead r) (s.reply v) = .hostWrite (offsetOf r) v := rfl

end Sys2Proof.Machine
end

