-- ==== Sys2Proof/Laws/Step.lean ====
section
/-! SUPPORT. What the sequencer, the host port and a step can do, once for each. -/

namespace Sys2Proof.Machine

/-- An operation the sequencer issues takes a next state; the phase is set unless the operation faulted (R123). -/
theorem issueThen_next (op : Instr) (after : State → State) (s : State) :
    ∃ t, exec op s = .next t ∧ issueThen op after s = .next (if t.busy then after t else t) := by
  obtain ⟨t, ht⟩ := exec_next op s
  exact ⟨t, ht, by simp only [issueThen, ht]⟩

/-- Everything the engine's move can do. -/
theorem engineStep_cases {s t : State} (h : engineStep s = .next t) :
    (s.busy = false ∧ t = s) ∨
      (s.busy = true ∧ seqAction s = .rest ∧ t = s) ∨
      (∃ p, s.busy = true ∧ seqAction s = .goto p ∧ t = s.gotoPhase p) ∨
      (∃ op p u, s.busy = true ∧ seqAction s = .issue op p ∧ exec op s = .next u ∧
        t = if u.busy then u.gotoPhase p else u) ∨
      ∃ u, s.busy = true ∧ seqAction s = .finish ∧ exec .fin s = .next u ∧ t = if u.busy then u.endRun else u := by
  unfold engineStep at h
  cases hb : s.busy with
  | false =>
    rw [hb] at h
    cases h
    exact .inl ⟨rfl, rfl⟩
  | true =>
    rw [hb, if_pos rfl, seqStep] at h
    cases ha : seqAction s with
    | rest =>
      rw [ha] at h
      cases h
      exact .inr (.inl ⟨rfl, rfl, rfl⟩)
    | goto p =>
      rw [ha] at h
      cases h
      exact .inr (.inr (.inl ⟨p, rfl, rfl, rfl⟩))
    | issue op p =>
      obtain ⟨u, hu, hi⟩ := issueThen_next op (fun t => t.gotoPhase p) s
      simp only [ha, hi] at h
      cases h
      exact .inr (.inr (.inr (.inl ⟨op, p, u, rfl, rfl, hu, rfl⟩)))
    | finish =>
      obtain ⟨u, hu, hi⟩ := issueThen_next .fin State.endRun s
      simp only [ha, hi] at h
      cases h
      exact .inr (.inr (.inr (.inr ⟨u, rfl, rfl, hu, rfl⟩)))

/-- Everything the acceptance of a command word can do (R120). -/
theorem command_cases {w : Word32} {s t : State} (h : command w s = .next t) :
    t = s.dropAccess ∨
      ∃ i, decode w = .ok i ∧ s.busy = false ∧ (s.fault = true → i = .srst) ∧ exec i s = .next t := by
  unfold command at h
  cases hd : decode w with
  | error e =>
    rw [hd] at h
    cases h
    exact .inl rfl
  | ok i =>
    simp only [hd] at h
    by_cases hb : s.busy = true
    · simp only [hb, if_true] at h
      cases h
      exact .inl rfl
    · by_cases hf : s.fault = true ∧ i ≠ .srst
      · rw [if_neg hb, if_pos hf] at h
        cases h
        exact .inl rfl
      · rw [if_neg hb, if_neg hf] at h
        exact .inr ⟨i, rfl, by simpa using hb, fun h1 => Classical.byContradiction fun h2 => hf ⟨h1, h2⟩, h⟩

/-- Everything a write to an operand register can do (R52). -/
theorem operandWrite_cases {s written t : State} (h : operandWrite s written = .next t) :
    (s.busy = true ∧ t = s.dropAccess) ∨ (s.busy = false ∧ t = written) := by
  unfold operandWrite at h
  cases hb : s.busy <;> simp only [hb, Bool.false_eq_true, if_true, if_false] at h <;> cases h
  · exact .inr ⟨rfl, rfl⟩
  · exact .inl ⟨rfl, rfl⟩

/-- Everything a host write can do: a dropped access, a command, or an operand register written while idle (R52). -/
theorem hostWrite_cases {s t : State} {off : Offset} {v : Word32} (h : hostWrite s off v = .next t) :
    t = s.dropAccess ∨
      (regAt off = some .cmd ∧ command v s = .next t) ∨
      (s.busy = false ∧ ∃ buf len seed, t = { s with buf := buf, len := len, seed := seed }) := by
  unfold hostWrite at h
  split at h
  · exact .inr (.inl ⟨‹_›, h⟩)
  all_goals first
    | (cases h; exact .inl rfl)
    | (obtain ⟨-, rfl⟩ | ⟨hb, rfl⟩ := operandWrite_cases h
       · exact .inl rfl
       · exact .inr (.inr ⟨hb, _, _, _, rfl⟩))

@[simp] theorem nextMove_nil {s : State} (h : s.schedule = []) : nextMove s = (.engine, s) := by
  unfold nextMove
  rw [h]

theorem nextMove_cons {s : State} {m : Move} {ms : List Move} (h : s.schedule = m :: ms) :
    nextMove s = (m, s.withSchedule ms) := by
  unfold nextMove
  rw [h]

/-- The move taken next changes nothing but the schedule before it is taken. -/
theorem nextMove_state (s : State) : ∃ ms, (nextMove s).2 = s.withSchedule ms := by
  cases h : s.schedule with
  | nil => exact ⟨s.schedule, by rw [nextMove_nil h]; rfl⟩
  | cons m ms => exact ⟨ms, by rw [nextMove_cons h]⟩

end Sys2Proof.Machine
end

