-- ==== Sys2Proof/Tests/Slice0.lean ====
section
/-! SUPPORT. Tests of the model, and for each obligation with hypotheses the states and operands that meet them.
Expected values are the vectors of 95_test_vectors.md unless a comment says otherwise. -/

open Sys2Proof Sys2Proof.Machine

namespace Sys2Proof.Tests

/-! ## Small states -/

/-- The state a step answers. -/
def nextOf (o : Host.Outcome State Fault Refusal) : Option State :=
  match o with
  | .next t => some t
  | .fault _ | .refused _ => none

/-- A field of the state that an operation leaves. -/
def after {α : Type} (i : Instr) (s : State) (f : State → α) : Option α := (nextOf (exec i s)).map f

/-- External memory valid at the addresses of a byte string. -/
def bytesAt (a : Nat) : List Byte → Memory
  | [] => []
  | b :: bs => (a, b) :: bytesAt (a + 1) bs

/-- `count` bytes of the pattern D7 of 95_test_vectors.md. -/
def d7 (count : Nat) : List Byte := (List.range count).map fun i => BitVec.ofNat 8 (7 * i + 1)

/-- The bytes 00 to 1F at 0x4000, the memory of program P2. -/
def p2Memory : Memory := bytesAt 0x4000 ((List.range 32).map (BitVec.ofNat 8))

/-- Program P2 with its fold open and the counters given. -/
def p2State (n ja jb : BitVec 8) : State :=
  { State.reset with ptr := 0x4000, rem := 32, n := n, ja := ja, jb := jb, mem := p2Memory }

/-- The nine bytes "123456789" at 0x3000, no fold open. -/
def digits (rem : Word32) : State :=
  { State.reset with
    ptr := 0x3000, rem := rem, mem := bytesAt 0x3000 [0x31, 0x32, 0x33, 0x34, 0x35, 0x36, 0x37, 0x38, 0x39] }

/-- A state in the middle of a run, at the first lane step of P2. -/
def busyState : State := { p2State 2 0 0 with busy := true, phase := .lanes }

/-- A state stopped by a fault. -/
def faultedState : State := { State.reset with fault := true, fcode := some .align, phase := .fault }

/-- A state before the step of one move. -/
def before (s : State) (m : Move) : State := { s with schedule := [m] }

/-! ## WellFormed refuses the ill-formed term of its one check -/

theorem test_luti_index_of_nine_bits_is_ill_formed : ¬(Instr.luti 256).WellFormed := by decide
theorem test_luti_largest_index_is_well_formed : (Instr.luti 255).WellFormed := by decide

/-! ## Decoding: words written out from R74, R75 and R77 (vectors of section 4) -/

theorem test_decode_nop : decode 0b00000000000000000000000000000000#32 = .ok .nop := by decide
theorem test_decode_init : decode 0b00000000000000000000000000000001#32 = .ok .init := by decide
theorem test_decode_s8 : decode 0b00000000000000000000000000000010#32 = .ok .s8 := by decide
theorem test_decode_s64 : decode 0b00000000000000000000000000000011#32 = .ok .s64 := by decide
theorem test_decode_s8i : decode 0b00000000000000001111111100000100#32 = .ok (.s8i 0xFF#8) := by decide
theorem test_decode_fin : decode 0b00000000000000000000000000000101#32 = .ok .fin := by decide
theorem test_decode_fset : decode 0b00000000000000000000000000001000#32 = .ok .fset := by decide
theorem test_decode_sa : decode 0b00000000000000000000000000001001#32 = .ok .sa := by decide
theorem test_decode_sb : decode 0b00000000000000000000000000001010#32 = .ok .sb := by decide
theorem test_decode_lut : decode 0b00000000000000000000000000001011#32 = .ok .lut := by decide
theorem test_decode_luti : decode 0b00000000000000001000000000001100#32 = .ok (.luti 128) := by decide
theorem test_decode_clm : decode 0b00000000000000000000000000001101#32 = .ok .clm := by decide
theorem test_decode_mrg : decode 0b00000000000000000000000000001110#32 = .ok .mrg := by decide
theorem test_decode_adv : decode 0b00000000000000000000000000001111#32 = .ok .adv := by decide
theorem test_decode_crc : decode 0b00000000000000000000000000010000#32 = .ok .crc := by decide
theorem test_decode_srst : decode 0b00000000000000000000000000011111#32 = .ok .srst := by decide

theorem test_decode_reserved_opcodes :
    decode 0x06 = .error .reservedOpcode ∧ decode 0x07 = .error .reservedOpcode ∧
    decode 0x11 = .error .reservedOpcode ∧ decode 0x1E = .error .reservedOpcode ∧
    decode 0x20 = .error .reservedOpcode ∧ decode 0xFF = .error .reservedOpcode ∧
    decode 0xFFFFFFFF = .error .reservedOpcode := by decide

theorem test_decode_nonzero_fields :
    decode 0x00000100 = .error .fieldNotZero ∧ decode 0x00000110 = .error .fieldNotZero ∧
    decode 0x80000010 = .error .fieldNotZero ∧ decode 0x0100001F = .error .fieldNotZero ∧
    decode 0x0001FF04 = .error .fieldNotZero ∧ decode 0x00010004 = .error .fieldNotZero := by decide

theorem test_encode_examples :
    encode (.s8i 0xFF) = 0x0000FF04#32 ∧ encode (.luti 3) = 0x0000030C#32 ∧ encode .crc = 0x00000010#32 := by decide +kernel

theorem test_decode_table_word : decodeTableWord 32 0x0000FF0C = some (.luti 255) := by decide

/-! ## The pure functions (section 1) -/

theorem test_lfsr1 :
    lfsr1 0xFFFFFFFF = 0xFD09C487#32 ∧ lfsr1 0x80000000 = 0x40000000#32 ∧ lfsr1 1 = 0x82F63B78#32 := by decide
theorem test_step8 :
    step8 0xFFFFFFFF 0x31 = 0x6F0A661C#32 ∧ step8 0 0x80 = 0x82F63B78#32 ∧
      step8 0x12345678 0x9A = 0x0219ECBB#32 := by decide +kernel
theorem test_step64 :
    step64 0xDEADBEEF12345678 0x0706050403020100 = 0x4C4E63A6#64 ∧
      step64 0 0x8000000000000000 = 0x82F63B78#64 := by decide +kernel
theorem test_clmul :
    clmul 3 3 = 5#128 ∧ clmul 2 0x8000000000000001 = 0x10000000000000002#128 ∧
      clmul 0x0123456789ABCDEF 0xFEDCBA9876543210 = 0x00E038D8688850B040A0789828C810F0#128 := by decide +kernel
theorem test_tbl : tbl 0 = 1#32 ∧ tbl 1 = 0x493C7D27#32 ∧ tbl 2 = 0xF20C0DFE#32 := by decide +kernel
theorem test_crc_serial_check_value :
    crcSerial 0xFFFFFFFF [0x31, 0x32, 0x33, 0x34, 0x35, 0x36, 0x37, 0x38, 0x39] = 0x1CF96D7C#32 := by decide +kernel

/-! ## One operation each (sections 2 and 3) -/

theorem test_nop (s : State) : exec .nop s = .next s := rfl

/-- S3. -/
theorem test_init_at_the_top :
    after .init { State.reset with buf := 0xFFFFFFFFFFFFFFF0, len := 15 } (fun t => (t.ptr, t.rem, t.fault)) =
      some (0xFFFFFFFFFFFFFFF0#64, 15#32, false) := by decide
/-- S4. -/
theorem test_init_past_the_top :
    after .init { State.reset with buf := 0xFFFFFFFFFFFFFFF0, len := 16 } (fun t => (t.ptr, t.statusWord)) =
      some (0#64, 0x00000F64#32) := by decide
/-- The first byte of X1. -/
theorem test_s8 :
    after .s8 { digits 9 with acca := 0xFFFFFFFF } (fun t => (t.acca, t.ptr, t.rem)) =
      some (0x6F0A661C#64, 0x3001#64, 8#32) := by decide +kernel
/-- S10: F_SEQ comes before F_UNDER. -/
theorem test_s8_in_a_fold : after .s8 { p2State 2 0 0 with rem := 0 } State.statusWord = some 0x00000F54#32 := by decide
/-- S12. -/
theorem test_s64 :
    after .s64 (digits 8) (fun t => (t.acca, t.ptr, t.rem)) = some (0xECAF3210#64, 0x3008#64, 0#32) := by
  decide +kernel
/-- S15: F_UNDER comes before F_ALIGN. -/
theorem test_s64_check_order :
    after .s64 { State.reset with ptr := 0x1003, rem := 7 } State.statusWord = some 0x00000F34#32 := by decide
/-- S19. -/
theorem test_s8i : after (.s8i 0xFF) State.reset (fun t => (t.acca, t.ptr)) = some (0xAD7D5351#64, 0#64) := by
  decide +kernel
/-- S22. -/
theorem test_fin :
    after .fin { State.reset with acca := 0xAD7D5351 } (fun t => (t.result, t.done)) =
      some (0xAD7D5351#32, true) := by decide
/-- F4. -/
theorem test_fset :
    after .fset { State.reset with ptr := 0x1000, rem := 2047, accb := 9 } (fun t => (t.n, t.accb)) =
      some (127#8, 0#64) := by decide
/-- F3. -/
theorem test_fset_capped :
    after .fset { State.reset with ptr := 0x1000, rem := 5000 } State.n = some 128#8 := by decide
/-- F11. -/
theorem test_sa :
    after .sa { p2State 2 1 0 with acca := 0x06040EB1 } (fun t => (t.acca, t.ja, t.jb)) =
      some (0x9BB99201#64, 2#8, 0#8) := by decide +kernel
/-- F12. -/
theorem test_sa_lane_complete : after .sa (p2State 2 2 0) State.statusWord = some 0x00000F54#32 := by decide
/-- F10. -/
theorem test_sb :
    after .sb (p2State 2 0 0) (fun t => (t.accb, t.ja, t.jb)) = some (0xE75A5617#64, 0#8, 1#8) := by decide +kernel
/-- F14. -/
theorem test_sb_of_one_block : after .sb (p2State 1 0 0) State.statusWord = some 0x00000F54#32 := by decide
/-- F17. -/
theorem test_lut : after .lut (p2State 2 0 0) State.k = some 0x493C7D27#32 := by decide +kernel
/-- R115, its example. -/
theorem test_luti : after (.luti 3) State.reset State.k = some 0xBA4FC28E#32 := by decide +kernel
/-- R65: memory that lists a byte of the shown window does not exclude it, and the byte after it may be listed. -/
theorem test_window_excluded :
    ¬Memory.excludesWindow [(0x307F, 1)] { Config.hardware with windowView := some 0x3000 } ∧
      Memory.excludesWindow [(0x3080, 1)] { Config.hardware with windowView := some 0x3000 } := by decide
/-- F_ROM, with a smaller ROM as parameter (section 6). -/
theorem test_luti_past_the_rom :
    after (.luti 64) { State.reset with cfg := { nMax := 32, leafBytes := 16, romDepth := 64 } } State.statusWord =
      some 0x00000F44#32 := by decide
/-- F26. -/
theorem test_clm :
    after .clm { State.reset with k := 0x493C7D27, acca := 0x12345678 } State.q = some 0x040D38E65F2DB468#64 := by
  decide +kernel
/-- F29. -/
theorem test_mrg :
    after .mrg { p2State 2 2 1 with accb := 0xE75A5617, q := 0x22B454191888C327 } (fun t => (t.acca, t.accb, t.jb)) =
      some (0xCC4C4FE4#64, 0xE75A5617#64, 2#8) := by decide +kernel
/-- F30. -/
theorem test_mrg_early : after .mrg (p2State 2 1 1) State.statusWord = some 0x00000F54#32 := by decide
/-- F33. -/
theorem test_adv :
    after .adv { State.reset with n := 7, ja := 7, jb := 7, ptr := 0x1008, rem := 127, accb := 3 }
      (fun t => (t.ptr, t.rem, t.foldWord, t.accb)) = some (0x1078#64, 15#32, 0#32, 0#64) := by decide
/-- F31. -/
theorem test_adv_early : after .adv (p2State 2 2 1) State.statusWord = some 0x00000F54#32 := by decide
/-- H8 and H18. -/
theorem test_crc :
    after .crc { State.reset with done := true, result := 5 } (fun t => (t.statusWord, t.result)) =
      some (0x00000101#32, 5#32) := by decide
/-- R138, its example. -/
theorem test_srst : (faultedState.statusWord, after .srst faultedState State.statusWord) =
    (0x00000F24#32, some 0#32) := by decide

/-! ## The host window and the sequencer (sections 5 and 8) -/

/-- H14. -/
theorem test_command_while_faulted :
    (nextOf (step (before faultedState (.hostWrite cmdOffset 0)))).map State.statusWord = some 0x00000F2C#32 := by
  decide
/-- H11. -/
theorem test_no_cancellation :
    (nextOf (step (before busyState (.hostWrite cmdOffset 0x1F)))).map State.statusWord = some 0x00000409#32 := by
  decide
/-- R52: the other half of BUF stays. -/
theorem test_buf_hi :
    (nextOf (step (before { State.reset with buf := 0x1111111122222222 } (.hostWrite 3 0xABCD)))).map State.buf =
      some 0x0000ABCD22222222#64 := by decide
/-- FOLD_V of program P7. -/
theorem test_fold_view : hostReadValue (p2State 12 7 6) 16 = 0x0006070C#32 := by decide
/-- R127: with JA = JB it is lane A's turn. -/
theorem test_lane_a_first : seqAction busyState = .issue .sa .lanes := by decide
/-- P4, rows 18 and 19: with JA = N and JB = N - 1 the lanes are done. -/
theorem test_lanes_done : seqAction { busyState with ja := 2, jb := 1 } = .goto .lut := by decide
/-- R57 and R67: another writer replaces valid bytes only. -/
theorem test_other_writer :
    (nextOf (step (before (digits 9) (.memWrite 0x3008 [0xAA, 0xBB])))).map
      (fun t => (t.mem.read 0x3008, t.mem.read 0x3009)) = some (some 0xAA#8, none) := by decide

/-! ## Host steps and pseudo-operations (R83 to R85; programs P1 and P2) -/

theorem test_offsets : offsetOf .bufLo = 2 ∧ offsetOf .result = 6 ∧ offsetOf .foldV = 16 := by decide
/-- P1, its host steps. -/
theorem test_crc32c_lines :
    crc32c 0x2000 1 0 =
      [.wr .bufLo 0x2000, .wr .bufHi 0, .wr .len 1, .wr .seed 0, .op .crc, .poll, .rd .result] := by decide
/-- P1 run as a listing: `poll` reads P_WTAIL and BUSY = 1 after three engine steps (R124 to R126), goes on, and ends
after the seventh; RESULT is read last. -/
theorem test_crc32c_polls_until_done :
    (match runListing [[], [], [], [], [], [.engine, .engine, .engine], List.replicate 4 .engine, []]
        (crc32c 0x2000 1 0) { State.reset with mem := bytesAt 0x2000 [0xFF] } with
      | .next (lines, t) => some (lines, t.replies)
      | .fault _ | .refused _ => none) =
      some ([], [0xAD7D5351#32, 0x00000002#32, 0x00000901#32]) := by decide +kernel
/-- A busy block keeps the listing at `poll`. -/
theorem test_poll_waits :
    (match runListing [[.engine], [], []] [.poll, .rd .result] busyState with
      | .next (lines, t) => some (lines, t.busy)
      | .fault _ | .refused _ => none) = some ([.poll, .rd .result], true) := by decide +kernel
/-- P3: `crc32c.cont` continues from the RESULT it has read. -/
theorem test_cont_seed :
    (match runListing [[], [], [], [], []] (crc32cCont 0x2005 5) { State.reset with result := 0x09C50B11 } with
      | .next (lines, t) => some (lines, t.seed, t.buf, t.len)
      | .fault _ | .refused _ => none) =
      some ([.op .crc, .poll, .rd .result], 0x09C50B11#32, 0x2005#64, 5#32) := by decide +kernel
/-- P2, its operations between INIT and FIN. -/
theorem test_fold_lines :
    fold (p2State 0 0 0) = [.op .fset, .op .sa, .op .sb, .op .sa, .op .lut, .op .clm, .op .mrg, .op .adv] := by decide

/-- R111, R120: `fold` with REM < 16 faults with F_UNDER in its FSET, and the lines after it are dropped with CERR (log
entry 19 for their number). -/
theorem test_fold_without_blocks :
    (match runListing (List.replicate 6 []) (fold (digits 9)) (digits 9) with
      | .next (lines, t) => some (lines, t)
      | .fault _ | .refused _ => none) =
      some ([], { digits 9 with fault := true, fcode := some .under, phase := .fault, cerr := true }) := by
  decide +kernel

/-! ## States that meet the hypotheses of the obligations, each clause at a boundary of its range -/

theorem inv_reset : State.reset.Inv := by
  refine ⟨?_, ?_, ?_, ?_, ?_, ?_, ?_, ?_, ?_, ?_, ?_, ?_, (fun h => nomatch h), ?_, ?_, ?_, ?_⟩ <;> decide

theorem inv_digits : (digits 9).Inv := by
  refine ⟨?_, ?_, ?_, ?_, ?_, ?_, ?_, ?_, ?_, ?_, ?_, ?_, (fun h => nomatch h), ?_, ?_, ?_, ?_⟩ <;> decide

/-- P2 with both lanes done: the last state of the fold in which MRG is the next operation. -/
theorem inv_p2_before_merge : (p2State 2 2 1).Inv := by
  refine ⟨?_, ?_, ?_, ?_, ?_, ?_, ?_, ?_, ?_, ?_, ?_, ?_, (fun h => nomatch h), ?_, ?_, ?_, ?_⟩ <;> decide +kernel

theorem inv_busy : busyState.Inv := by
  refine ⟨?_, ?_, ?_, ?_, ?_, ?_, ?_, ?_, ?_, ?_, ?_, ?_, (fun _ => ⟨rfl, rfl, ?_⟩), ?_, ?_, ?_, ?_⟩
  case refine_13 => exact (by decide : busyState.n ≠ 0 ∧ busyState.jb.toNat + 1 ≤ busyState.n.toNat ∧
    (busyState.ja.toNat = busyState.jb.toNat ∨ busyState.ja.toNat = busyState.jb.toNat + 1))
  all_goals decide +kernel

theorem inv_faulted : faultedState.Inv := by
  refine ⟨?_, ?_, ?_, ?_, ?_, ?_, ?_, ?_, ?_, ?_, ?_, ?_, (fun h => nomatch h), ?_, ?_, ?_, ?_⟩ <;> decide

theorem witness_DecodeOfEncode : (Instr.luti 255).WellFormed ∧ (Instr.luti 0).WellFormed := by decide

theorem witness_EncodeOfDecode : decode 0x0000FF0C = .ok (.luti 255) := by decide

theorem witness_ReservedAndPaddedWordsAreIllegal :
    ((0xFFFFFF20#32).extractLsb' 0 8).toNat = 0x20 ∧ ((0x0000001E#32).extractLsb' 0 8).toNat = 0x1E ∧
    ((0x00000100#32).extractLsb' 0 8).toNat = 0x00 ∧ (0x00000100#32).extractLsb' 8 24 ≠ 0#24 ∧
    ((0x8000001F#32).extractLsb' 0 8).toNat = 0x1F ∧ (0x8000001F#32).extractLsb' 8 24 ≠ 0#24 ∧
    ((0x0001FF0C#32).extractLsb' 0 8).toNat = 0x0C ∧ (0x0001FF0C#32).extractLsb' 16 16 ≠ 0#16 := by decide

theorem witness_CommandWordsAreAccepted :
    (before busyState (.hostWrite cmdOffset 0x06)).schedule = [.hostWrite cmdOffset 0x06] ∧
    decode 0x06 = .error .reservedOpcode ∧
    decode 0x1F = .ok .srst ∧ (before busyState (.hostWrite cmdOffset 0x1F)).busy = true ∧
    decode 0x10 = .ok .crc ∧ (before faultedState (.hostWrite cmdOffset 0x10)).busy = false ∧
    (before faultedState (.hostWrite cmdOffset 0x10)).fault = true ∧ Instr.crc ≠ .srst ∧
    (before faultedState (.hostWrite cmdOffset 0x1F)).busy = false ∧
    (before State.reset (.hostWrite cmdOffset 0x10)).fault = false := by decide

theorem witness_StepRunsTheDecodedWord :
    decode 0x0000FF0C = .ok (.luti 255) ∧ State.reset.busy = false ∧ State.reset.fault = false := by decide

theorem witness_HostWritesReachTheOperandRegisters :
    (∀ off : Offset, (before (digits 9) (.hostWrite off 7)).schedule = .hostWrite off 7 :: [] ∧
      (before (digits 9) (.hostWrite off 7)).busy = false ∧
      (before busyState (.hostWrite off 7)).schedule = .hostWrite off 7 :: [] ∧
      (before busyState (.hostWrite off 7)).busy = true) ∧
    digits 9 = { before (digits 9) (.hostWrite 5 7) with schedule := [] } ∧
    (∃ off : Offset, off.val = 0) ∧ (∃ off : Offset, off.val = 2) ∧ (∃ off : Offset, off.val = 3) ∧
    (∃ off : Offset, off.val = 4) ∧ (∃ off : Offset, off.val = 5) ∧ (∃ off : Offset, off.val = 1) ∧
    (∃ off : Offset, off.val = 6) ∧ ∃ off : Offset, off.val = 31 := by decide

theorem witness_HostReadsReturnTheWindowRegisters :
    (before busyState (.hostRead 31)).schedule = .hostRead 31 :: [] ∧ 17 ≤ (17 : Offset).val ∧
      17 ≤ (31 : Offset).val := by decide

/-- The three combinations of R43 occur in states of the invariant. -/
theorem witness_StatusAndFoldFields :
    (busyState.Inv ∧ busyState.busy = true) ∧ (faultedState.Inv ∧ faultedState.fault = true) ∧
      (State.reset.Inv ∧ State.reset.busy = false ∧ State.reset.fault = false) :=
  ⟨⟨inv_busy, rfl⟩, ⟨inv_faulted, rfl⟩, ⟨inv_reset, rfl, rfl⟩⟩

/-- A bus address that reaches the window's first register, one past its last place, and one out of step. -/
theorem witness_WindowBusAddresses :
    offsetOfBus Config.windowBase = some 0 ∧ 128 ≤ (Config.windowBase + 128 - Config.windowBase).toNat ∧
      (1#64).toNat % 4 ≠ 0 := by
  refine ⟨?_, ?_, by decide⟩
  · simp [offsetOfBus]
  · rw [BitVec.add_comm, BitVec.add_sub_cancel]
    decide

theorem witness_InitBeginsAComputation :
    (0xFFFFFFFFFFFFFFF0#64).toNat + (15#32).toNat < 2 ^ 64 ∧ (0xFFFFFFFFFFFFFFFF#64).toNat + (0#32).toNat < 2 ^ 64 ∧
      2 ^ 64 ≤ (0xFFFFFFFFFFFFFFF0#64).toNat + (16#32).toNat := by decide

theorem witness_S8ConsumesOneByte :
    ((digits 1).n = 0 ∧ (digits 1).rem ≠ 0 ∧ (digits 1).mem.read (digits 1).ptr.toNat = some 0x31) ∧
    (p2State 1 0 0).n ≠ 0 ∧ (digits 0).rem = 0 ∧
    ((digits 1).rem ≠ 0 ∧ (digits 1).mem.read ({ digits 1 with ptr := 0x3009 } : State).ptr.toNat = none) := by decide

theorem witness_S8ConsumesOneByte_inv : (digits 9).Inv ∧ (digits 9).rem ≠ 0 := ⟨inv_digits, by decide⟩

theorem witness_S64ConsumesOneWord :
    ((digits 8).n = 0 ∧ 8 ≤ (digits 8).rem.toNat ∧ (digits 8).ptr.toNat % 8 = 0 ∧
      (memRead8 (digits 8).mem (digits 8).ptr).toOption = some 0x3837363534333231) ∧
    (p2State 1 0 0).n ≠ 0 ∧ (digits 7).rem.toNat < 8 ∧
    (8 ≤ (digits 8).rem.toNat ∧ ({ digits 8 with ptr := 0x3001 } : State).ptr.toNat % 8 ≠ 0) ∧
    (8 ≤ (digits 8).rem.toNat ∧ ({ digits 8 with ptr := 0x3008 } : State).ptr.toNat % 8 = 0 ∧
      (memRead8 (digits 8).mem 0x3008).toOption = none) := by decide +kernel

theorem witness_FsetOpensAFold :
    ((digits 16).n = 0 ∧ 16 ≤ (digits 16).rem.toNat ∧ (digits 16).ptr.toNat % 8 = 0) ∧
    (digits 16).cfg.Legal ∧ (digits 112).cfg.leafBytes ≤ (digits 112).rem.toNat ∧
    (p2State 1 0 0).n ≠ 0 ∧ (digits 15).rem.toNat < 16 ∧
    ({ digits 16 with ptr := 0x3007 } : State).ptr.toNat % 8 ≠ 0 := by decide

/-- The last SA of a lane, a complete lane, no fold, an invalid word, and a misaligned one. -/
theorem witness_SaStepsLaneA :
    ((p2State 2 1 0).n ≠ 0 ∧ (p2State 2 1 0).ja.toNat < (p2State 2 1 0).n.toNat ∧
      (memRead8 (p2State 2 1 0).mem ((p2State 2 1 0).ptr + 8 * (p2State 2 1 0).ja.setWidth 64)).toOption =
        some 0x0F0E0D0C0B0A0908) ∧
    (p2State 2 2 0).n.toNat ≤ (p2State 2 2 0).ja.toNat ∧ (p2State 0 0 0).n = 0 ∧
    ((p2State 5 4 0).ja.toNat < (p2State 5 4 0).n.toNat ∧ memRead8 p2Memory (0x4000 + 8 * 4) = .error .bus) ∧
    (({ p2State 2 0 0 with ptr := 0x4001 } : State).ptr +
      8 * ({ p2State 2 0 0 with ptr := 0x4001 } : State).ja.setWidth 64).toNat % 8 ≠ 0 := by decide +kernel

/-- The last SB of a lane, its last word, no fold, an invalid word, and a misaligned one. -/
theorem witness_SbStepsLaneB :
    ((p2State 2 0 0).n ≠ 0 ∧ (p2State 2 0 0).jb.toNat + 1 < (p2State 2 0 0).n.toNat ∧
      (memRead8 (p2State 2 0 0).mem ((p2State 2 0 0).ptr + 8 * (p2State 2 0 0).n.setWidth 64 +
        8 * (p2State 2 0 0).jb.setWidth 64)).toOption = some 0x1716151413121110) ∧
    (p2State 2 0 1).n.toNat ≤ (p2State 2 0 1).jb.toNat + 1 ∧ (p2State 0 0 0).n = 0 ∧
    ((p2State 4 0 0).jb.toNat + 1 < (p2State 4 0 0).n.toNat ∧
      memRead8 p2Memory (0x4000 + 8 * 4 + 8 * 0) = .error .bus) ∧
    (({ p2State 2 0 0 with ptr := 0x4007 } : State).ptr + 8 * (2#8).setWidth 64 +
      8 * (0#8).setWidth 64).toNat % 8 ≠ 0 := by decide +kernel

/-- The clauses of SA, SB, LUT, CLM and ADV about states of the invariant with a fold open. -/
theorem witness_open_fold_inv : (p2State 2 2 1).Inv ∧ (p2State 2 2 1).n ≠ 0 := ⟨inv_p2_before_merge, by decide⟩

/-- Misaligned lane words at the last step of each kind. -/
theorem witness_EightByteReadsAreAligned :
    ({ p2State 2 1 0 with ptr := 0x4001 } : State).ptr.toNat % 8 ≠ 0 ∧ (p2State 2 1 0).n ≠ 0 ∧
    (p2State 2 1 0).ja.toNat < (p2State 2 1 0).n.toNat ∧ (p2State 2 1 0).jb.toNat + 1 < (p2State 2 1 0).n.toNat ∧
    (p2State 2 2 1).ja = (p2State 2 2 1).n ∧ (p2State 2 2 1).jb.toNat + 1 = (p2State 2 2 1).n.toNat := by decide

theorem witness_LutFetchesTheFoldConstant :
    ((p2State 255 0 0).n ≠ 0 ∧ (p2State 255 0 0).n.toNat - 1 < (p2State 255 0 0).cfg.romDepth) ∧
    (p2State 0 0 0).n = 0 ∧
    ({ nMax := 1, leafBytes := 16, romDepth := 2 } : Config).romDepth ≤ (p2State 3 0 0).n.toNat - 1 := by decide

theorem witness_LutiReadsAnyEntry :
    255 < State.reset.cfg.romDepth ∧ State.reset.cfg.romDepth ≤ 256 ∧ State.reset.cfg.romDepth = 256 ∧
      (Instr.luti 255).WellFormed := by decide

/-- MRG in its place, out of it in each of the three ways, at an invalid word, and at a misaligned one. -/
theorem witness_MrgMergesTheLanes :
    ((p2State 2 2 1).n ≠ 0 ∧ (p2State 2 2 1).ja = (p2State 2 2 1).n ∧
      (p2State 2 2 1).jb.toNat + 1 = (p2State 2 2 1).n.toNat ∧
      (memRead8 (p2State 2 2 1).mem ((p2State 2 2 1).ptr + 8 * (p2State 2 2 1).n.setWidth 64 +
        8 * (p2State 2 2 1).jb.setWidth 64)).toOption = some 0x1F1E1D1C1B1A1918) ∧
    (p2State 0 0 0).n = 0 ∧ (p2State 2 1 1).ja ≠ (p2State 2 1 1).n ∧
    (p2State 2 2 2).jb.toNat + 1 ≠ (p2State 2 2 2).n.toNat ∧
    ((p2State 3 3 2).ja = (p2State 3 3 2).n ∧ (p2State 3 3 2).jb.toNat + 1 = (p2State 3 3 2).n.toNat ∧
      memRead8 p2Memory (0x4000 + 8 * 3 + 8 * 2) = .error .bus) ∧
    (({ p2State 2 2 1 with ptr := 0x4004 } : State).ptr + 8 * (2#8).setWidth 64 +
      8 * (1#8).setWidth 64).toNat % 8 ≠ 0 := by decide +kernel

/-- The effect of MRG at P2: its two lanes, K and Q as the program leaves them. -/
theorem witness_MrgMergesTheLanes_effect :
    memRead8 p2Memory 0x4018 = .ok 0x1F1E1D1C1B1A1918 ∧
    0x9BB99201 = chain64 (zext64 0) [0x0706050403020100, 0x0F0E0D0C0B0A0908] ∧
    0xE75A5617 = chain64 0 [0x1716151413121110] ∧ 0x493C7D27 = tbl 1 ∧
    0x22B454191888C327 = clmulLow (zext64 0x493C7D27) 0x9BB99201 := by decide +kernel

theorem witness_AdvClosesTheFold :
    ((p2State 2 2 2).n ≠ 0 ∧ (p2State 2 2 2).ja = (p2State 2 2 2).n ∧ (p2State 2 2 2).jb = (p2State 2 2 2).n) ∧
    (p2State 0 0 0).n = 0 ∧ (p2State 2 1 2).ja ≠ (p2State 2 1 2).n ∧
    (p2State 2 2 1).jb ≠ (p2State 2 2 1).n := by decide

theorem witness_SrstResetsEveryRegister :
    (before faultedState (.hostWrite cmdOffset 0x0000001F)).schedule = .hostWrite cmdOffset 0x0000001F :: [] := rfl

theorem witness_IdleEngineHasNoStep : nextMove State.reset = (.engine, State.reset) ∧ State.reset.busy = false := by
  decide

/-- The busy state in each phase of R124, R128 to R131 and R134. -/
theorem witness_SequencerFixedPhases (p : Phase) :
    nextMove { busyState with phase := p } = (.engine, { busyState with phase := p }) ∧
      ({ busyState with phase := p } : State).busy = true ∧ ({ busyState with phase := p } : State).phase = p :=
  ⟨rfl, rfl, rfl⟩

/-- The conditions of R125 to R127, R132 and R133 at their boundaries. -/
theorem witness_SequencerLoopPhases :
    (∀ s ∈ [State.reset, p2State 2 0 0], nextMove { s with busy := true } = (.engine, { s with busy := true })) ∧
    ((0x1007#64).toNat % 8 ≠ 0 ∧ (1#32) ≠ 0) ∧ (0x1008#64).toNat % 8 = 0 ∧
    (State.reset.cfg.leafBytes ≤ (112#32).toNat ∧ (111#32).toNat < State.reset.cfg.leafBytes) ∧
    ((p2State 2 1 1).ja.toNat ≤ (p2State 2 1 1).jb.toNat ∧ (p2State 2 1 1).ja.toNat < (p2State 2 1 1).n.toNat) ∧
    (¬((p2State 2 1 0).ja.toNat ≤ (p2State 2 1 0).jb.toNat ∧ (p2State 2 1 0).ja.toNat < (p2State 2 1 0).n.toNat) ∧
      (p2State 2 1 0).jb.toNat + 1 < (p2State 2 1 0).n.toNat) ∧
    (¬((p2State 2 2 1).ja.toNat ≤ (p2State 2 2 1).jb.toNat ∧ (p2State 2 2 1).ja.toNat < (p2State 2 2 1).n.toNat) ∧
      (p2State 2 2 1).n.toNat ≤ (p2State 2 2 1).jb.toNat + 1) ∧
    (8 ≤ (8#32).toNat ∧ (7#32).toNat < 8) ∧ seqAction { busyState with phase := .wtail } = .issue .s64 .wtail := by
  decide

theorem witness_ResetValues : (before faultedState .hwReset).schedule = .hwReset :: [] := rfl

/-- Of the hypotheses only the index can fail: its largest value. -/
theorem witness_FirstCommandAfterReset : 255 < 256 := by decide

theorem witness_OperationsTouchOnlyTheirRow (i : Instr) : ∃ t, exec i busyState = .next t := exec_next i busyState

/-- An operation that faults: S8 with nothing remaining. -/
theorem witness_FaultEntryIsPrecise :
    (digits 0).phase ≠ .fault ∧ exec .s8 (digits 0) = .next ((digits 0).raiseFault .under) ∧
      ((digits 0).raiseFault .under).phase = .fault := ⟨by decide, rfl, rfl⟩

theorem witness_FaultCausesAreTheListedOnes :
    State.reset.Inv ∧ State.reset.fault = false ∧ exec .s8 State.reset = .next (State.reset.raiseFault .under) ∧
      (State.reset.raiseFault .under).fcode = some .under ∧ Instr.s8.WellFormed ∧ State.reset.cfg.romDepth = 256 :=
  ⟨inv_reset, rfl, rfl, rfl, trivial, rfl⟩

theorem witness_FaultIsStickyUntilReset :
    faultedState.Inv ∧ faultedState.fault = true ∧ faultedState.schedule = [] ∧ step faultedState = .next faultedState :=
  ⟨inv_faulted, rfl, rfl, rfl⟩

/-- A busy engine in the lanes with its next word not valid. -/
theorem witness_SequencerFaultsAreBusOrRange :
    step { busyState with mem := [] } = .next ({ busyState with mem := [] }.raiseFault .bus) ∧
      ({ busyState with mem := [] } : State).Inv := by
  refine ⟨rfl, ?_⟩
  have h := inv_busy
  exact { h with memWf := by decide, windowExcluded := by decide }

theorem witness_StepKeepsTheInvariant : busyState.Inv ∧ ∃ t, step busyState = .next t := ⟨inv_busy, _, rfl⟩

/-- S64 on a buffer of nine bytes. -/
theorem witness_ExtentIsKept : (digits 9).Inv ∧ (∃ t, exec .s64 (digits 9) = .next t) ∧ Instr.s64 ≠ .init ∧
    Instr.s64 ≠ .srst := ⟨inv_digits, ⟨_, rfl⟩, by decide, by decide⟩

/-- Memory with more valid bytes on both sides of the buffer. -/
theorem witness_ReadsStayInsideTheBuffer :
    (digits 9).Inv ∧ (∃ t, exec .s64 (digits 9) = .next t) ∧
    ∀ a, (digits 9).ptr.toNat ≤ a → a < (digits 9).ptr.toNat + (digits 9).rem.toNat →
      Memory.read ((0, 1#8) :: (digits 9).mem) a = (digits 9).mem.read a := by
  refine ⟨inv_digits, ⟨_, rfl⟩, fun a h _ => if_neg ?_⟩
  intro h0
  subst h0
  exact absurd h (by decide)

theorem witness_EngineNeverWritesMemory :
    (∃ t, step busyState = .next t) ∧ ∀ a bs ms, busyState.schedule ≠ .memWrite a bs :: ms :=
  ⟨⟨_, rfl⟩, fun _ _ _ h => nomatch h⟩

theorem witness_OtherWritersReplaceValidBytes :
    (before (digits 9) (.memWrite 0x3008 [0xAA, 0xBB])).schedule = .memWrite 0x3008 [0xAA, 0xBB] :: [] := rfl

theorem witness_CommandErrorMarkIsInert (s : State) (h : s = { busyState with cerr := true }) :
    s.cerr = true ∧ (∀ ms, s.schedule ≠ .hwReset :: ms) ∧ (∀ w ms, s.schedule ≠ .hostWrite cmdOffset w :: ms) ∧
      (∀ ms, s.schedule ≠ .hostRead 1 :: ms) ∧ ∃ t, step s = .next t := by
  subst h
  exact ⟨rfl, (fun _ h => nomatch h), (fun _ _ h => nomatch h), (fun _ h => nomatch h), _, rfl⟩

/-- The three orders of P2 in section 3 of the vectors, LUT among them. -/
theorem witness_LaneOrderIsFree :
    (∀ i ∈ [Instr.sa, .lut, .sb, .sa], i = .sa ∨ i = .sb ∨ i = .lut) ∧
    [Instr.sa, .lut, .sb, .sa].Perm [.sb, .sa, .sa, .lut] ∧
    (nextOf (execAll [.sa, .lut, .sb, .sa] (p2State 2 0 0))).map
      (fun t => (t.acca, t.accb, t.foldWord, t.k, t.fault)) =
        some (0x9BB99201#64, 0xE75A5617#64, 0x00010202#32, 0x493C7D27#32, false) := by decide +kernel

theorem witness_OperationsIgnoreBusyAndPhase :
    (digits 9).phase ≠ .fault ∧ ∃ t, exec .fin (digits 9) = .next t ∧ t.phase = (digits 9).phase :=
  ⟨by decide, _, rfl, rfl⟩

theorem witness_StepsAreLinear : [1#64, 2#64].length = [3#64, 4#64].length := rfl

theorem witness_ClmulLaws : (0xFFFFFFFF#64).toNat < 2 ^ 32 ∧ (1#64).toNat < 2 ^ 1 := by decide

theorem witness_MergeFoldsTheLanes :
    [0x0706050403020100#64, 0x0F0E0D0C0B0A0908#64].length = [0x1716151413121110#64].length + 1 ∧
      [0x3736353433323130#64].length = ([] : List Word64).length + 1 := ⟨rfl, rfl⟩

theorem witness_RomHoldsTheListedTable :
    2 < 3 ∧ 2 < 256 ∧ 255 < State.reset.cfg.romDepth ∧ romListing[255]? = some 0xA51B6135#32 := by decide +kernel

/-- A run over "123456789" from its first byte, and one of the empty buffer at the last address. -/
theorem witness_CrcRunComputesTheCrc :
    (digits 9).cfg.Legal ∧ (digits 9).busy = false ∧ (digits 9).fault = false ∧
    (digits 9).withCommand 0x00000010 = { digits 9 with schedule := [.hostWrite cmdOffset 0x00000010#32] } ∧
    ({ digits 9 with buf := 0x3000, len := 9 } : State).bufferBytes =
      some [0x31, 0x32, 0x33, 0x34, 0x35, 0x36, 0x37, 0x38, 0x39] ∧
    ({ digits 9 with buf := 0xFFFFFFFFFFFFFFFF, len := 0 } : State).bufferBytes = some [] ∧
    (0xFFFFFFFFFFFFFFFF#64).toNat + (0#32).toNat < 2 ^ 64 := by decide +kernel

/-- Nine valid bytes with the window shown right after them, and a word that reaches into it. -/
theorem witness_EightByteReadsAreAligned_window :
    ({ State.reset with cfg := { Config.hardware with windowView := some 0x3009 }, mem := (digits 9).mem } : State).Inv ∧
    ((0x3009#64).toNat ≤ (0x3088#64).toNat ∧ (0x3088#64).toNat < (0x3009#64).toNat + 128) ∧
    (0x3008#64).toNat % 8 = 0 ∧ (0x3009#64).toNat < (0x3008#64).toNat + 8 := by
  refine ⟨?_, by decide, by decide, by decide⟩
  refine ⟨?_, ?_, ?_, ?_, ?_, ?_, ?_, ?_, ?_, ?_, ?_, ?_, (fun h => nomatch h), ?_, ?_, ?_, ?_⟩ <;> decide

/-- The first lane step of P2's fold, as a run from 0x4000 reaches it. -/
def p2RunState : State := { busyState with buf := 0x4000, len := 32 }

theorem witness_CrcRunFaultsOnAnInvalidBuffer_run :
    p2RunState.Inv ∧ p2RunState.busy = true ∧ p2RunState.RunInv ∧ p2RunState.schedule = [] ∧
      ∃ t, step p2RunState = .next t := by
  refine ⟨{ inv_busy with }, rfl, ⟨by decide, by decide, fun h => absurd h (by decide), fun _ => ?_, ?_, ?_⟩, rfl, _, rfl⟩
  · exact ⟨[], [], [], rfl, rfl, rfl, by decide⟩
  · exact fun h => absurd h (by decide)
  · exact fun h => absurd h (by decide)

/-- A run in P_INIT, before the supporting invariant holds. -/
theorem witness_CrcRunFaultsOnAnInvalidBuffer_init :
    ({ p2RunState with phase := .init } : State).Inv ∧ ∃ t, step { p2RunState with phase := .init } = .next t :=
  ⟨{ inv_busy with
      busyRun := fun _ => ⟨rfl, rfl, trivial⟩
      faultStop := fun h => nomatch h
      idleRest := fun h => nomatch h }, _, rfl⟩

/-- A buffer that ends at the top of the address space, and one with its last byte not valid. -/
theorem witness_CrcRunFaultsOnAnInvalidBuffer :
    2 ^ 64 ≤ (0xFFFFFFFFFFFFFFF0#64).toNat + (16#32).toNat ∧
    ({ digits 9 with buf := 0x3000, len := 10 } : State).bufferBytes = none ∧
    (0x3000#64).toNat + (10#32).toNat < 2 ^ 64 := by decide

theorem witness_EveryRunEnds : busyState.Inv ∧ busyState.busy = true ∧ busyState.schedule = [] :=
  ⟨inv_busy, rfl, rfl⟩

end Sys2Proof.Tests
end

section
/-! PROOFS. What an operation that does not fault has checked and written, and from it the access rows (O33). -/

open Sys2Proof Sys2Proof.Machine

namespace Sys2Proof.Machine

/-- An operation that passes its checks: the checks (the order of 41_serial_ops.md and 42_fold_ops.md) and the state its
writes leave. `exec_cases` ties it to `exec`. -/
inductive Completes (s : State) : Instr → State → Prop
  | nop : Completes s .nop s
  | init (range : s.outOfRange = false) : Completes s .init { s with
      acca := zext64 s.seed, accb := 0, ptr := s.buf, rem := s.len, n := 0, ja := 0, jb := 0, k := 0, q := 0,
      done := false }
  | s8 (b : Byte) (closed : s.n = 0) (more : s.rem ≠ 0) (read : s.mem.read s.ptr.toNat = some b) :
      Completes s .s8 { s with acca := zext64 (step8 (lo32 s.acca) b), ptr := s.ptr + 1, rem := s.rem - 1 }
  | s64 (w : Word64) (closed : s.n = 0) (room : 8 ≤ s.rem.toNat) (al : aligned8 s.ptr = true)
      (read : memRead8 s.mem s.ptr = .ok w) :
      Completes s .s64 { s with acca := step64 s.acca w, ptr := s.ptr + 8, rem := s.rem - 8 }
  | s8i (byte : Byte) : Completes s (.s8i byte) { s with acca := zext64 (step8 (lo32 s.acca) byte) }
  | fin : Completes s .fin { s with result := lo32 s.acca, done := true }
  | fset (closed : s.n = 0) (room : 16 ≤ s.rem.toNat) (al : aligned8 s.ptr = true) :
      Completes s .fset { s with n := s.blockCount, ja := 0, jb := 0, accb := 0 }
  | sa (w : Word64) (turn : s.n ≠ 0 ∧ s.ja.toNat < s.n.toNat) (read : memRead8 s.mem s.laneAAddr = .ok w) :
      Completes s .sa { s with acca := step64 s.acca w, ja := s.ja + 1 }
  | sb (w : Word64) (turn : s.n ≠ 0 ∧ s.jb.toNat + 1 < s.n.toNat) (read : memRead8 s.mem s.laneBAddr = .ok w) :
      Completes s .sb { s with accb := step64 s.accb w, jb := s.jb + 1 }
  | lut (opened : s.n ≠ 0) (inRom : s.n.toNat - 1 < s.cfg.romDepth) :
      Completes s .lut { s with k := tbl (s.n.toNat - 1) }
  | luti (index : Nat) (inRom : index < s.cfg.romDepth) : Completes s (.luti index) { s with k := tbl index }
  | clm : Completes s .clm { s with q := clmulLow (zext64 s.k) s.acca }
  | mrg (w : Word64) (turn : s.n ≠ 0 ∧ s.ja = s.n ∧ s.jb.toNat = s.n.toNat - 1)
      (read : memRead8 s.mem s.laneBAddr = .ok w) :
      Completes s .mrg { s with acca := step64 s.accb (s.q ^^^ w), jb := s.jb + 1 }
  | adv (turn : s.n ≠ 0 ∧ s.ja = s.n ∧ s.jb = s.n) : Completes s .adv { s with
      ptr := s.ptr + s.blockBytes, rem := s.rem - s.blockBytes.setWidth 32, n := 0, ja := 0, jb := 0, accb := 0 }
  | crc : Completes s .crc { s with busy := true, done := false, phase := .init }
  | srst : Completes s .srst s.resetBlock

/-- Everything an operation can do: the fault entry, or its checked writes (R121, R141). -/
theorem exec_cases {i : Instr} {s t : State} (h : exec i s = .next t) :
    (∃ c, t = s.raiseFault c) ∨ Completes s i t := by
  cases i
  case nop => cases h; exact .inr .nop
  case s8i byte => cases h; exact .inr (.s8i byte)
  case fin => cases h; exact .inr .fin
  case clm => cases h; exact .inr .clm
  case crc => cases h; exact .inr .crc
  case srst => cases h; exact .inr .srst
  case init =>
    obtain ⟨-, rfl⟩ | ⟨hr, rfl⟩ := execInit_cases h
    · exact .inl ⟨_, rfl⟩
    · exact .inr (.init hr)
  case s8 =>
    obtain ⟨-, rfl⟩ | ⟨-, -, rfl⟩ | ⟨-, -, -, rfl⟩ | ⟨b, hn, hr, hb, rfl⟩ := execS8_cases h
    case inr.inr.inr => exact .inr (.s8 b hn hr hb)
    all_goals exact .inl ⟨_, rfl⟩
  case s64 =>
    obtain ⟨-, rfl⟩ | ⟨-, -, rfl⟩ | ⟨-, -, -, rfl⟩ | ⟨-, -, -, -, rfl⟩ | ⟨w, hn, hr, ha, hw, rfl⟩ := execS64_cases h
    case inr.inr.inr.inr => exact .inr (.s64 w hn hr ha hw)
    all_goals exact .inl ⟨_, rfl⟩
  case fset =>
    obtain ⟨-, rfl⟩ | ⟨-, -, rfl⟩ | ⟨-, -, -, rfl⟩ | ⟨hn, hr, ha, rfl⟩ := execFset_cases h
    case inr.inr.inr => exact .inr (.fset hn hr ha)
    all_goals exact .inl ⟨_, rfl⟩
  case sa =>
    obtain ⟨-, rfl⟩ | ⟨c, -, -, rfl⟩ | ⟨w, ht, hw, rfl⟩ := execSa_cases h
    case inr.inr => exact .inr (.sa w (by simpa using ht) hw)
    all_goals exact .inl ⟨_, rfl⟩
  case sb =>
    obtain ⟨-, rfl⟩ | ⟨c, -, -, rfl⟩ | ⟨w, ht, hw, rfl⟩ := execSb_cases h
    case inr.inr => exact .inr (.sb w (by simpa using ht) hw)
    all_goals exact .inl ⟨_, rfl⟩
  case lut =>
    obtain ⟨-, rfl⟩ | ⟨-, -, rfl⟩ | ⟨hn, hi, rfl⟩ := execLut_cases h
    case inr.inr => exact .inr (.lut hn hi)
    all_goals exact .inl ⟨_, rfl⟩
  case luti index =>
    obtain ⟨-, rfl⟩ | ⟨hi, rfl⟩ := execLuti_cases h
    · exact .inl ⟨_, rfl⟩
    · exact .inr (.luti index hi)
  case mrg =>
    obtain ⟨-, rfl⟩ | ⟨c, -, -, rfl⟩ | ⟨w, ht, hw, rfl⟩ := execMrg_cases h
    case inr.inr => exact .inr (.mrg w (by simpa using ht) hw)
    all_goals exact .inl ⟨_, rfl⟩
  case adv =>
    obtain ⟨-, rfl⟩ | ⟨ht, rfl⟩ := execAdv_cases h
    · exact .inl ⟨_, rfl⟩
    · exact .inr (.adv (by simpa using ht))

/-- Settles O33: the fault entry and the writes of each operation, read off `exec_cases`. -/
theorem operationsTouchOnlyTheirRow : Obligations.OperationsTouchOnlyTheirRow := by
  intro i s t h
  obtain ⟨c, rfl⟩ | hc := exec_cases h
  · exact ⟨fun _ => rfl, .inl ⟨c, rfl⟩⟩
  · cases hc <;> exact ⟨fun _ => rfl, .inr rfl⟩

/-- An operation that completes leaves the run's flags alone, but for CRC and SRST (R32). -/
theorem Completes.flags {s t : State} {i : Instr} (hc : Completes s i t) (hcrc : i ≠ .crc) (hsrst : i ≠ .srst) :
    t.phase = s.phase ∧ t.busy = s.busy ∧ t.fault = s.fault ∧ t.fcode = s.fcode := by
  cases hc
  case crc => exact absurd rfl hcrc
  case srst => exact absurd rfl hsrst
  all_goals exact ⟨rfl, rfl, rfl, rfl⟩

end Sys2Proof.Machine
end

section
/-! PROOFS. How far an operation moves PTR and REM (O41). -/

open Sys2Proof Sys2Proof.Machine

namespace Sys2Proof.Machine

/-- The bytes of a block are counted without wrap (R103). -/
theorem blockBytes_toNat (s : State) : s.blockBytes.toNat = 16 * s.n.toNat := by
  have := s.n.isLt
  simp only [State.blockBytes, BitVec.ofNat_eq_ofNat, BitVec.toNat_mul, BitVec.toNat_setWidth, BitVec.toNat_ofNat]
  omega

/-- Moving `d` remaining bytes past PTR moves both registers by `d` as integers (R24). -/
theorem consume_toNat {p : Addr} {r : Word32} {d : Word64} (hd : d.toNat ≤ r.toNat)
    (hext : p.toNat + r.toNat < 2 ^ 64) :
    (p + d).toNat = p.toNat + d.toNat ∧ (r - d.setWidth 32).toNat = r.toNat - d.toNat := by
  have := r.isLt
  constructor
  · rw [BitVec.toNat_add, Nat.mod_eq_of_lt (by omega)]
  · rw [BitVec.toNat_sub_of_le (by rw [BitVec.le_def, BitVec.toNat_setWidth]; omega), BitVec.toNat_setWidth,
      Nat.mod_eq_of_lt (by omega)]

/-- So the sum of the two registers stays as it was (R24). -/
theorem consume_extent {p : Addr} {r : Word32} {d : Word64} (hd : d.toNat ≤ r.toNat)
    (hext : p.toNat + r.toNat < 2 ^ 64) : (p + d).toNat + (r - d.setWidth 32).toNat = p.toNat + r.toNat := by
  obtain ⟨hp, hr⟩ := consume_toNat hd hext
  omega

/-- A register that is not zero counts at least one. -/
theorem one_le_toNat {w : Nat} {x : BitVec w} (h : x ≠ 0) : 1 ≤ x.toNat :=
  Nat.pos_of_ne_zero fun h0 => h (BitVec.eq_of_toNat_eq (by simpa using h0))

/-- The extent is kept by every operation that completes, given that the extent and the open block are in range. -/
theorem Completes.extentEnd_eq {s t : State} {i : Instr} (hc : Completes s i t) (hext : s.extentEnd < 2 ^ 64)
    (hfit : 16 * s.n.toNat ≤ s.rem.toNat) (hinit : i ≠ .init) (hsrst : i ≠ .srst) : t.extentEnd = s.extentEnd := by
  cases hc
  case init => exact absurd rfl hinit
  case srst => exact absurd rfl hsrst
  case s8 b closed more read => exact consume_extent (d := 1) (one_le_toNat more) hext
  case s64 w closed room al read => exact consume_extent (d := 8) room hext
  case adv turn => exact consume_extent (by rwa [blockBytes_toNat]) hext
  all_goals rfl

/-- Settles O41: a fault entry keeps PTR and REM, and a completed operation moves them together. -/
theorem extentIsKept : Obligations.ExtentIsKept := by
  intro i s t hs hinit hsrst h
  obtain ⟨c, rfl⟩ | hc := exec_cases h
  · rfl
  · exact hc.extentEnd_eq hs.extent hs.blockFits hinit hsrst

end Sys2Proof.Machine
end

section
/-! PROOFS. Where the values of the datapath stay in range: the native step in 32 bits, the product in 63. -/

namespace Sys2Proof.Machine

/-- One shift halves the range of a value until that range is the polynomial's own 32 bits (R91). -/
theorem wordShift_lt {v : Word64} {k : Nat} (hk : 32 ≤ k) (hv : v.toNat < 2 ^ (k + 1)) :
    (wordShift v).toNat < 2 ^ k := by
  have hshift : (v >>> 1).toNat < 2 ^ k := by
    rw [BitVec.toNat_ushiftRight, Nat.shiftRight_eq_div_pow]
    omega
  have hpoly : (zext64 Config.poly).toNat < 2 ^ k := by
    rw [zext64_toNat]
    exact Nat.lt_of_lt_of_le Config.poly.isLt (Nat.pow_le_pow_right (by decide) hk)
  unfold wordShift
  split
  · rw [BitVec.toNat_xor]
    exact Nat.xor_lt_two_pow hshift hpoly
  · exact hshift

theorem wordShifts_lt (v : Word64) (i : Nat) : (wordShifts v i).toNat < 2 ^ max 32 (64 - i) := by
  induction i with
  | zero => exact v.isLt
  | succ i ih =>
    refine wordShift_lt (by omega) (Nat.lt_of_lt_of_le ih (Nat.pow_le_pow_right (by decide) ?_))
    omega

/-- `step64` returns a zero upper half (R91). -/
theorem step64_lt (s w : Word64) : (step64 s w).toNat < 2 ^ 32 := wordShifts_lt _ 64

theorem zext64_lt (v : Word32) : (zext64 v).toNat < 2 ^ 32 := zext64_toNat v ▸ v.isLt

/-- The partial products of an `m`-bit and an `n`-bit value have at most `m + n - 1` bits (R96). -/
theorem clmulBelow_lt {a b : Word64} {m n : Nat} (ha : a.toNat < 2 ^ m) (hb : b.toNat < 2 ^ n) (i : Nat) :
    (clmulBelow a b i).toNat < 2 ^ (m + n - 1) := by
  induction i with
  | zero => exact Nat.two_pow_pos _
  | succ i ih =>
    rw [clmulBelow, BitVec.toNat_xor]
    refine Nat.xor_lt_two_pow ih ?_
    split
    case isFalse => exact Nat.two_pow_pos _
    case isTrue hbit =>
      have hi : i < n := by
        by_contra hge
        have := Nat.testBit_lt_two_pow (Nat.lt_of_lt_of_le hb (Nat.pow_le_pow_right (by decide) (Nat.not_lt.mp hge)))
        rw [BitVec.testBit_toNat, hbit] at this
        cases this
      calc (a.setWidth 128 <<< i).toNat
          ≤ (a.setWidth 128).toNat <<< i := by rw [BitVec.toNat_shiftLeft]; exact Nat.mod_le _ _
        _ = a.toNat * 2 ^ i := by
            rw [BitVec.toNat_setWidth, Nat.mod_eq_of_lt (by have := a.isLt; omega), Nat.shiftLeft_eq]
        _ < 2 ^ m * 2 ^ i := Nat.mul_lt_mul_of_pos_right ha (Nat.two_pow_pos i)
        _ ≤ 2 ^ (m + n - 1) := by
            rw [← Nat.pow_add]
            exact Nat.pow_le_pow_right (by decide) (by omega)

/-- The product of two 32-bit values has at most 63 bits (R96). -/
theorem clmulLow_lt {a b : Word64} (ha : a.toNat < 2 ^ 32) (hb : b.toNat < 2 ^ 32) :
    (clmulLow a b).toNat < 2 ^ 63 := by
  rw [clmulLow, BitVec.toNat_setWidth]
  exact Nat.lt_of_le_of_lt (Nat.mod_le _ _) (clmulBelow_lt ha hb 64)

end Sys2Proof.Machine
end

section
/-! PROOFS. The half of the invariant that speaks of the datapath, memory and the parameters: every operation keeps
it. -/

namespace Sys2Proof.Machine

/-- The clauses of `State.Inv` that no flag and no phase decides; each is the clause of that name. -/
structure State.RegInv (s : State) : Prop where
  cfgLegal : s.cfg.Legal
  memWf : s.mem.wf
  accaHigh : s.acca.toNat < 2 ^ 32
  accbHigh : s.accb.toNat < 2 ^ 32
  accbClosed : s.n = 0 → s.accb = 0
  qHigh : s.q.toNat < 2 ^ 63
  nMax : s.n.toNat ≤ s.cfg.nMax
  jaMax : s.ja.toNat ≤ s.n.toNat
  jbMax : s.jb.toNat ≤ s.n.toNat
  extent : s.extentEnd < 2 ^ 64
  blockFits : 16 * s.n.toNat ≤ s.rem.toNat
  foldAligned : s.n ≠ 0 → s.ptr.toNat % 8 = 0
  windowExcluded : s.mem.excludesWindow s.cfg

theorem State.Inv.regInv {s : State} (h : s.Inv) : s.RegInv := { h with }

/-- The invariant of an idle block without a fault: it rests in P_IDLE (R43). -/
theorem State.RegInv.inv_idle {s : State} (h : s.RegInv) (hbusy : s.busy = false) (hfault : s.fault = false)
    (hphase : s.phase = .idle) (hfcode : s.fcode = none) : s.Inv :=
  { h with
    busyRun := fun hb => by rw [hbusy] at hb; cases hb
    faultStop := fun hf => by rw [hfault] at hf; cases hf
    idleRest := fun _ _ => hphase
    fcodeSet := by rw [hfault, hfcode]; rfl }

/-- The invariant of a busy block: what R43 says of its flags, and what its phase says of the registers. -/
theorem State.RegInv.inv_busy {s : State} (h : s.RegInv) (hbusy : s.busy = true) (hfault : s.fault = false)
    (hdone : s.done = false) (hphase : s.phaseInv) (hfcode : s.fcode = none) : s.Inv :=
  { h with
    busyRun := fun _ => ⟨hfault, hdone, hphase⟩
    faultStop := fun hf => by rw [hfault] at hf; cases hf
    idleRest := fun hb => by rw [hbusy] at hb; cases hb
    fcodeSet := by rw [hfault, hfcode]; rfl }

/-- The fault entry leads to a legal stop (R43, R141). -/
theorem State.RegInv.inv_raiseFault {s : State} (h : s.RegInv) (c : FaultCode) : (s.raiseFault c).Inv :=
  { h with
    busyRun := nofun
    faultStop := fun _ => ⟨rfl, rfl⟩
    idleRest := nofun
    fcodeSet := rfl }

/-- With the fold closed and its registers cleared, the rest is the ranges of the other registers (R20, R25 to R27). -/
theorem State.RegInv.of_closed {s : State} (cfgLegal : s.cfg.Legal) (memWf : s.mem.wf)
    (windowExcluded : s.mem.excludesWindow s.cfg) (hn : s.n = 0) (hja : s.ja = 0) (hjb : s.jb = 0)
    (haccb : s.accb = 0) (accaHigh : s.acca.toNat < 2 ^ 32) (qHigh : s.q.toNat < 2 ^ 63)
    (extent : s.extentEnd < 2 ^ 64) : s.RegInv where
  cfgLegal := cfgLegal
  memWf := memWf
  accaHigh := accaHigh
  accbHigh := by simp [haccb]
  accbClosed _ := haccb
  qHigh := qHigh
  nMax := by simp [hn]
  jaMax := by simp [hja]
  jbMax := by simp [hjb]
  extent := extent
  blockFits := by simp [hn]
  foldAligned h := absurd hn h
  windowExcluded := windowExcluded

/-- A reset keeps memory and the parameters and clears the rest (R159). -/
theorem State.RegInv.inv_resetBlock {s : State} (h : s.RegInv) : s.resetBlock.Inv := by
  have hr : s.resetBlock.RegInv := .of_closed h.cfgLegal h.memWf h.windowExcluded rfl rfl rfl rfl
    (Nat.two_pow_pos 32) (Nat.two_pow_pos 63) (Nat.two_pow_pos 64)
  exact hr.inv_idle rfl rfl rfl rfl

/-- INIT's check is the clause on the extent (R24, R106). -/
theorem outOfRange_eq_false {s : State} : s.outOfRange = false ↔ s.buf.toNat + s.len.toNat < 2 ^ 64 := by
  simp [State.outOfRange]

/-- FSET's block count as an integer: legal parameters fit it into N (R7, R111). -/
theorem blockCount_toNat {s : State} (h : s.cfg.Legal) : s.blockCount.toNat = min (s.rem.toNat / 16) s.cfg.nMax := by
  obtain ⟨-, hmax, -⟩ := h
  rw [State.blockCount, BitVec.toNat_ofNat, Nat.mod_eq_of_lt (by omega)]

/-- A counter below another does not wrap when it steps. -/
theorem toNat_add_one {x y : BitVec 8} (h : x.toNat < y.toNat) : (x + 1).toNat = x.toNat + 1 := by
  have := y.isLt
  rw [BitVec.toNat_add, Nat.mod_eq_of_lt (by simp; omega)]
  rfl

/-- Every operation that completes keeps the datapath's half of the invariant. -/
theorem Completes.regInv {s t : State} {i : Instr} (hc : Completes s i t) (h : s.RegInv) : t.RegInv := by
  have hext := hc.extentEnd_eq h.extent h.blockFits
  cases hc
  case nop | fin | lut | luti | crc => exact { h with }
  case srst => exact h.inv_resetBlock.regInv
  case s8i byte => exact { h with accaHigh := zext64_lt _ }
  case clm => exact { h with qHigh := clmulLow_lt (zext64_lt _) h.accaHigh }
  case init range =>
    exact .of_closed h.cfgLegal h.memWf h.windowExcluded rfl rfl rfl rfl (zext64_lt _) (Nat.two_pow_pos 63)
      (outOfRange_eq_false.mp range)
  case s8 b closed more read =>
    exact { h with
      accaHigh := zext64_lt _
      extent := (hext nofun nofun).trans_lt h.extent
      blockFits := by simp [closed]
      foldAligned := fun hn => absurd closed hn }
  case s64 w closed room al read =>
    exact { h with
      accaHigh := step64_lt _ _
      extent := (hext nofun nofun).trans_lt h.extent
      blockFits := by simp [closed]
      foldAligned := fun hn => absurd closed hn }
  case fset closed room al =>
    have hn := blockCount_toNat h.cfgLegal
    exact { h with
      accbHigh := Nat.two_pow_pos 32
      accbClosed := fun _ => rfl
      nMax := by simp only [hn]; omega
      jaMax := Nat.zero_le _
      jbMax := Nat.zero_le _
      blockFits := by simp only [hn]; omega
      foldAligned := fun _ => (aligned8_iff _).mp al }
  case sa w turn read =>
    exact { h with
      accaHigh := step64_lt _ _
      jaMax := (toNat_add_one turn.2).trans_le turn.2 }
  case sb w turn read =>
    exact { h with
      accbHigh := step64_lt _ _
      accbClosed := fun hn => absurd hn turn.1
      jbMax := (toNat_add_one (Nat.lt_of_succ_lt turn.2)).trans_le (Nat.le_of_lt turn.2) }
  case mrg w turn read =>
    obtain ⟨hn, -, hjb⟩ := turn
    have hlt : s.jb.toNat < s.n.toNat := by have := one_le_toNat hn; omega
    exact { h with
      accaHigh := step64_lt _ _
      jbMax := (toNat_add_one hlt).trans_le hlt }
  case adv turn =>
    exact .of_closed h.cfgLegal h.memWf h.windowExcluded rfl rfl rfl rfl h.accaHigh h.qHigh
      ((hext nofun nofun).trans_lt h.extent)

end Sys2Proof.Machine
end

section
/-! PROOFS. The sequencer: what each of its actions says of the state before it, and that its steps keep what the
phase says of the registers. -/

open Sys2Proof Sys2Proof.Machine

namespace Sys2Proof.Machine

/-! ## The predicates of R39 as facts about the registers -/

theorem unaligned_iff {s : State} : s.unaligned = true ↔ s.ptr.toNat % 8 ≠ 0 := by
  simp [State.unaligned, ← aligned8_iff]

theorem more_iff {s : State} : s.more = true ↔ s.rem ≠ 0 := by simp [State.more]

theorem bulk_iff {s : State} : s.bulk = true ↔ s.cfg.leafBytes ≤ s.rem.toNat := by simp [State.bulk]

theorem word_iff {s : State} : s.word = true ↔ 8 ≤ s.rem.toNat := by simp [State.word]

theorem aTurn_iff {s : State} : s.aTurn = true ↔ s.ja.toNat ≤ s.jb.toNat ∧ s.ja.toNat < s.n.toNat := by
  simp [State.aTurn]

theorem bTurn_iff {s : State} : s.bTurn = true ↔ s.jb.toNat + 1 < s.n.toNat := by simp [State.bTurn]

/-! ## The sequencer's actions -/

/-- The operation a phase issues, under the predicates that choose it, and the phase after it (R124 to R133). -/
inductive Issues (s : State) : Instr → Phase → Prop
  | init (here : s.phase = .init) : Issues s .init .align
  | align (here : s.phase = .align) (cond : s.unaligned = true ∧ s.more = true) : Issues s .s8 .align
  | bulk (here : s.phase = .bulk) (cond : s.bulk = true) : Issues s .fset .lanes
  | laneA (here : s.phase = .lanes) (cond : s.aTurn = true) : Issues s .sa .lanes
  | laneB (here : s.phase = .lanes) (notA : ¬s.aTurn = true) (cond : s.bTurn = true) : Issues s .sb .lanes
  | lut (here : s.phase = .lut) : Issues s .lut .clm
  | clm (here : s.phase = .clm) : Issues s .clm .mrg
  | mrg (here : s.phase = .mrg) : Issues s .mrg .adv
  | adv (here : s.phase = .adv) : Issues s .adv .bulk
  | wtail (here : s.phase = .wtail) (cond : s.word = true) : Issues s .s64 .wtail
  | btail (here : s.phase = .btail) (cond : s.more = true) : Issues s .s8 .btail

/-- A phase left without an operation, and the predicates that leave it (R125 to R127, R132, R133). -/
inductive Leaves (s : State) : Phase → Prop
  | align (here : s.phase = .align) (cond : ¬(s.unaligned = true ∧ s.more = true)) : Leaves s .bulk
  | bulk (here : s.phase = .bulk) (cond : ¬s.bulk = true) : Leaves s .wtail
  | lanes (here : s.phase = .lanes) (notA : ¬s.aTurn = true) (notB : ¬s.bTurn = true) : Leaves s .lut
  | wtail (here : s.phase = .wtail) (cond : ¬s.word = true) : Leaves s .btail
  | btail (here : s.phase = .btail) (cond : ¬s.more = true) : Leaves s .fin

/-- What an action says of the state the sequencer takes it in. -/
def SeqAction.Taken (s : State) : SeqAction → Prop
  | .issue op p => Issues s op p
  | .goto p => Leaves s p
  | .finish => s.phase = .fin
  | .rest => s.phase = .idle ∨ s.phase = .fault

theorem seqAction_taken (s : State) : (seqAction s).Taken s := by
  unfold seqAction
  split
  case h_1 here => exact .inl here
  case h_2 here => exact .init here
  case h_3 here =>
    split
    case isTrue cond => exact .align here (by simpa using cond)
    case isFalse cond => exact .align here (by simpa using cond)
  case h_4 here =>
    split
    case isTrue cond => exact .bulk here cond
    case isFalse cond => exact .bulk here cond
  case h_5 here =>
    split
    case isTrue cond => exact .laneA here cond
    case isFalse notA =>
      split
      case isTrue cond => exact .laneB here notA cond
      case isFalse notB => exact .lanes here notA notB
  case h_6 here => exact .lut here
  case h_7 here => exact .clm here
  case h_8 here => exact .mrg here
  case h_9 here => exact .adv here
  case h_10 here =>
    split
    case isTrue cond => exact .wtail here cond
    case isFalse cond => exact .wtail here cond
  case h_11 here =>
    split
    case isTrue cond => exact .btail here cond
    case isFalse cond => exact .btail here cond
  case h_12 here => exact here
  case h_13 here => exact .inr here

/-- A phase is left without an operation only where the next phase's facts hold (R125 to R127, R132, R133). -/
theorem Leaves.phaseInv {s : State} {p : Phase} (hl : Leaves s p) (hs : s.phaseInv) : (s.gotoPhase p).phaseInv := by
  cases hl with
  | align here cond =>
    simp only [State.phaseInv, here] at hs
    simp only [unaligned_iff, more_iff] at cond
    exact ⟨hs, by tauto⟩
  | bulk here cond =>
    simp only [State.phaseInv, here] at hs
    rw [bulk_iff, Nat.not_le] at cond
    exact ⟨hs.1, hs.2, cond⟩
  | lanes here notA notB =>
    simp only [State.phaseInv, here] at hs
    obtain ⟨hn, hjb, hlanes⟩ := hs
    rw [aTurn_iff] at notA
    rw [bTurn_iff] at notB
    have hja : s.ja.toNat = s.n.toNat := by omega
    have hlast : s.jb.toNat + 1 = s.n.toNat := by omega
    exact ⟨hn, BitVec.eq_of_toNat_eq hja, hlast⟩
  | wtail here cond =>
    simp only [State.phaseInv, here] at hs
    rw [word_iff, Nat.not_le] at cond
    exact ⟨hs.1, cond⟩
  | btail here cond =>
    simp only [State.phaseInv, here] at hs
    rw [more_iff, not_not] at cond
    exact ⟨hs.1, cond⟩

/-- An operation of the sequencer that completes leaves what the next phase says of the registers (R124 to R133). -/
theorem Issues.phaseInv {s t : State} {op : Instr} {p : Phase} (hi : Issues s op p) (hc : Completes s op t)
    (h : s.RegInv) (hs : s.phaseInv) : (t.gotoPhase p).phaseInv := by
  cases hi with
  | init here => cases hc; exact rfl
  | align here cond => cases hc with | s8 b closed more read => exact closed
  | bulk here cond =>
    cases hc with
    | fset closed room al =>
      have hn := blockCount_toNat h.cfgLegal
      obtain ⟨hmin, -⟩ := h.cfgLegal
      have hpos : 1 ≤ s.blockCount.toNat := by omega
      have hne : s.blockCount ≠ 0 := fun h0 => by simp [h0] at hpos
      exact ⟨hne, hpos, .inl rfl⟩
  | laneA here cond =>
    simp only [State.phaseInv, here] at hs
    obtain ⟨hn, hjb, hlanes⟩ := hs
    rw [aTurn_iff] at cond
    cases hc with
    | sa w turn read =>
      have hahead : (s.ja + 1).toNat = s.jb.toNat + 1 := by
        rw [toNat_add_one turn.2]
        omega
      exact ⟨hn, hjb, .inr hahead⟩
  | laneB here notA cond =>
    simp only [State.phaseInv, here] at hs
    obtain ⟨hn, hjb, hlanes⟩ := hs
    rw [aTurn_iff] at notA
    cases hc with
    | sb w turn read =>
      have hstep := toNat_add_one (Nat.lt_of_succ_lt turn.2)
      have hlevel : s.ja.toNat = (s.jb + 1).toNat := by omega
      exact ⟨hn, hstep ▸ turn.2, .inl hlevel⟩
  | lut here =>
    simp only [State.phaseInv, here] at hs
    cases hc; exact hs
  | clm here =>
    simp only [State.phaseInv, here] at hs
    cases hc; exact hs
  | mrg here =>
    simp only [State.phaseInv, here] at hs
    obtain ⟨hn, hja, hjb⟩ := hs
    cases hc with
    | mrg w turn read =>
      have hstep : (s.jb + 1).toNat = s.n.toNat := (toNat_add_one (Nat.lt_of_succ_le hjb.le)).trans hjb
      exact ⟨hn, hja, BitVec.eq_of_toNat_eq hstep⟩
  | adv here =>
    simp only [State.phaseInv, here] at hs
    cases hc with
    | adv turn =>
      obtain ⟨hp, -⟩ := consume_toNat (by rw [blockBytes_toNat]; exact h.blockFits) h.extent
      have hal := h.foldAligned turn.1
      have hal' : (s.ptr + s.blockBytes).toNat % 8 = 0 := by
        rw [hp, blockBytes_toNat]
        omega
      exact ⟨rfl, .inr hal'⟩
  | wtail here cond =>
    simp only [State.phaseInv, here] at hs
    obtain ⟨hn, -, hrem⟩ := hs
    cases hc with
    | s64 w closed room al read =>
      obtain ⟨hp, hr⟩ : (s.ptr + 8).toNat = s.ptr.toNat + 8 ∧ (s.rem - 8).toNat = s.rem.toNat - 8 :=
        consume_toNat (d := 8) room h.extent
      rw [aligned8_iff] at al
      exact ⟨hn, .inr (show (s.ptr + 8).toNat % 8 = 0 by omega), hr ▸ Nat.lt_of_le_of_lt (Nat.sub_le _ _) hrem⟩
  | btail here cond =>
    simp only [State.phaseInv, here] at hs
    obtain ⟨hn, hrem⟩ := hs
    cases hc with
    | s8 b closed more read =>
      obtain ⟨-, hr⟩ : _ ∧ (s.rem - 1).toNat = s.rem.toNat - 1 := consume_toNat (d := 1) (one_le_toNat more) h.extent
      exact ⟨hn, hr ▸ Nat.lt_of_le_of_lt (Nat.sub_le _ _) hrem⟩

/-- The sequencer issues neither CRC nor SRST nor FIN, so it does not set DONE, and an operation of its own leaves it
busy unless it faults (R82). -/
theorem Issues.flags {s t : State} {op : Instr} {p : Phase} (hi : Issues s op p) (hc : Completes s op t)
    (hdone : s.done = false) :
    t.busy = s.busy ∧ t.fault = s.fault ∧ t.fcode = s.fcode ∧ t.done = false := by
  cases hi <;> cases hc
  case init => exact ⟨rfl, rfl, rfl, rfl⟩
  all_goals exact ⟨rfl, rfl, rfl, hdone⟩

end Sys2Proof.Machine
end

section
/-! PROOFS. Every move keeps the invariant (O38). -/

open Sys2Proof Sys2Proof.Machine

namespace Sys2Proof.Machine

/-- FCODE holds no cause while FAULT = 0 (R37). -/
theorem State.Inv.fcode_eq_none {s : State} (h : s.Inv) (hfault : s.fault = false) : s.fcode = none := by
  have := h.fcodeSet
  rwa [hfault, Option.isSome_eq_false_iff, Option.isNone_iff_eq_none] at this

/-- An operation of an idle block keeps the invariant; in the FAULT state only SRST runs (R120). -/
theorem exec_inv_of_idle {i : Instr} {s t : State} (h : s.Inv) (hbusy : s.busy = false)
    (hfault : s.fault = true → i = .srst) (he : exec i s = .next t) : t.Inv := by
  obtain ⟨c, rfl⟩ | hc := exec_cases he
  · exact h.regInv.inv_raiseFault c
  by_cases hsrst : i = .srst
  · subst hsrst
    cases hc
    exact h.regInv.inv_resetBlock
  have hf : s.fault = false := by simpa using mt hfault hsrst
  have ht := hc.regInv h.regInv
  by_cases hcrc : i = .crc
  · subst hcrc
    cases hc
    exact ht.inv_busy rfl hf rfl trivial (h.fcode_eq_none hf)
  · obtain ⟨hphase, hbusy', hfault', hfcode⟩ := hc.flags hcrc hsrst
    exact ht.inv_idle (hbusy'.trans hbusy) (hfault'.trans hf) (hphase.trans (h.idleRest hbusy hf))
      (hfcode.trans (h.fcode_eq_none hf))

/-- The engine's move keeps the invariant (R123 to R134). -/
theorem engineStep_inv {s t : State} (h : s.Inv) (he : engineStep s = .next t) : t.Inv := by
  have htaken := seqAction_taken s
  obtain ⟨-, rfl⟩ | ⟨-, -, rfl⟩ | ⟨p, hb, ha, rfl⟩ | ⟨op, p, u, hb, ha, hu, rfl⟩ | ⟨u, hb, ha, hu, rfl⟩ :=
    engineStep_cases he
  · exact h
  · exact h
  · rw [ha] at htaken
    obtain ⟨hf, hd, hp⟩ := h.busyRun hb
    have hr : (s.gotoPhase p).RegInv := { h with }
    exact hr.inv_busy hb hf hd (Leaves.phaseInv htaken hp) (h.fcode_eq_none hf)
  · rw [ha] at htaken
    obtain ⟨hf, hd, hp⟩ := h.busyRun hb
    obtain ⟨c, rfl⟩ | hc := exec_cases hu
    · exact h.regInv.inv_raiseFault c
    · obtain ⟨hbusy, hfault, hfcode, hdone⟩ := Issues.flags htaken hc hd
      have hr : (u.gotoPhase p).RegInv := { hc.regInv h.regInv with }
      rw [if_pos (hbusy.trans hb)]
      exact hr.inv_busy (hbusy.trans hb) (hfault.trans hf) hdone (Issues.phaseInv htaken hc h.regInv hp)
        (hfcode.trans (h.fcode_eq_none hf))
  · obtain ⟨hf, -, -⟩ := h.busyRun hb
    cases hu
    rw [if_pos hb]
    have hr : (State.endRun { s with result := lo32 s.acca, done := true }).RegInv := { h with }
    exact hr.inv_idle rfl hf rfl (h.fcode_eq_none hf)

/-- A host write keeps the invariant (R52, R120). -/
theorem hostWrite_inv {s t : State} {off : Offset} {v : Word32} (h : s.Inv) (hw : hostWrite s off v = .next t) :
    t.Inv := by
  obtain rfl | ⟨-, hc⟩ | ⟨hb, buf, len, seed, rfl⟩ := hostWrite_cases hw
  · exact { h with }
  · obtain rfl | ⟨i, -, hb, hf, he⟩ := command_cases hc
    · exact { h with }
    · exact exec_inv_of_idle h hb hf he
  · exact { h with }

/-- Another writer's bytes change no address of memory, so they keep the invariant (R57, R67). -/
theorem memWrite_inv {s : State} (h : s.Inv) (a : Nat) (bytes : List Byte) :
    State.Inv { s with mem := s.mem.storeBytes a bytes } :=
  { h with
    memWf := Memory.storeBytes_wf h.memWf a bytes
    windowExcluded := Memory.storeBytes_excludesWindow h.windowExcluded a bytes }

/-- One move of one agent keeps the invariant (R12). -/
theorem takeMove_inv {m : Move} {s t : State} (h : s.Inv) (hm : takeMove m s = .next t) : t.Inv := by
  cases m with
  | hostWrite off v => exact hostWrite_inv h hm
  | hostRead off => cases hm; exact { h with }
  | engine => exact engineStep_inv h hm
  | memWrite a bytes => cases hm; exact memWrite_inv h a.toNat bytes
  | hwReset => cases hm; exact h.regInv.inv_resetBlock

/-- Settles O38: taking the next move off the schedule touches no clause, and the move keeps them all. -/
theorem stepKeepsTheInvariant : Obligations.StepKeepsTheInvariant := by
  intro s t h hstep
  obtain ⟨ms, hms⟩ := nextMove_state s
  have hnext : (s.withSchedule ms).Inv := { h with }
  rw [← hms] at hnext
  exact takeMove_inv hnext hstep

end Sys2Proof.Machine
end

section
/-! PROOFS. The host window: writes (O8), reads (O9), STATUS and FOLD_V (O10), bus addresses (O11). -/

open Sys2Proof Sys2Proof.Machine

namespace Sys2Proof.Machine

/-! ## Host writes -/

theorem lo32_eq_extractLsb' (v : Word64) : lo32 v = v.extractLsb' 0 32 :=
  BitVec.setWidth_eq_extractLsb' (by decide)

/-- A scheduled move is the move of the step. -/
theorem step_cons {s : State} {m : Move} {ms : List Move} (h : s.schedule = m :: ms) :
    step s = takeMove m (s.withSchedule ms) := by
  rw [step, nextMove_cons h]

theorem operandWrite_idle {s : State} (written : State) (h : s.busy = false) :
    operandWrite s written = .next written := by
  rw [operandWrite, h]
  rfl

theorem operandWrite_busy {s : State} (written : State) (h : s.busy = true) :
    operandWrite s written = .next s.dropAccess := by
  rw [operandWrite, h]
  rfl

/-- The operand registers stand at the offsets 0x08 to 0x14 (R41). -/
theorem hostWrite_operand_busy {s : State} (h : s.busy = true) {off : Offset} (hoff : 2 ≤ off.val ∧ off.val ≤ 5)
    (v : Word32) : hostWrite s off v = .next s.dropAccess := by
  have hreg : off = 2 ∨ off = 3 ∨ off = 4 ∨ off = 5 := by simp only [Fin.ext_iff]; omega
  obtain rfl | rfl | rfl | rfl := hreg <;> exact operandWrite_busy _ h

/-- The registers a host write reaches stand at the first offsets but 0x04 (R41). -/
theorem regAt_ne_of_readOnly : ∀ off : Offset, off.val = 1 ∨ 6 ≤ off.val →
    ∀ r ∈ [HostReg.cmd, .bufLo, .bufHi, .len, .seed], regAt off ≠ some r := by decide

/-- A write to a read-only or unmapped offset is dropped (R52). -/
theorem hostWrite_readOnly {off : Offset} (hoff : off.val = 1 ∨ 6 ≤ off.val) (s : State) (v : Word32) :
    hostWrite s off v = .next s.dropAccess := by
  have hne := regAt_ne_of_readOnly off hoff
  unfold hostWrite
  split
  case h_1 hr | h_2 hr | h_3 hr | h_4 hr | h_5 hr => exact absurd hr (hne _ (by decide))
  all_goals rfl

/-- Settles O8: each clause is what `hostWrite` answers at that offset. -/
theorem hostWritesReachTheOperandRegisters : Obligations.HostWritesReachTheOperandRegisters := by
  intro s u off v ms hs hu
  subst hu
  rw [show step s = hostWrite (s.withSchedule ms) off v from step_cons hs]
  refine ⟨fun h => ?_, fun h hb => ?_, fun h hb => ?_, fun h hb => ?_, fun h hb => ?_, fun h hb => ?_, fun h => ?_⟩
  · obtain rfl : off = 0 := Fin.ext h
    rfl
  · obtain rfl : off = 2 := Fin.ext h
    exact operandWrite_idle _ hb
  · obtain rfl : off = 3 := Fin.ext h
    rw [← lo32_eq_extractLsb']
    exact operandWrite_idle _ hb
  · obtain rfl : off = 4 := Fin.ext h
    exact operandWrite_idle _ hb
  · obtain rfl : off = 5 := Fin.ext h
    exact operandWrite_idle _ hb
  · exact hostWrite_operand_busy (s := s.withSchedule ms) hb h v
  · exact hostWrite_readOnly h _ v

/-! ## Host reads -/

/-- Offsets 0x44 to 0x7C are unmapped (R41). -/
theorem regAt_unmapped {off : Offset} (h : 17 ≤ off.val) : regAt off = none := List.getElem?_eq_none h

/-- Settles O9: the move is a reply, and each offset's register is read off the window. -/
theorem hostReadsReturnTheWindowRegisters : Obligations.HostReadsReturnTheWindowRegisters := by
  refine ⟨fun s off ms hs => ?_, fun s => ?_⟩
  · rw [step_cons hs]
    rfl
  simp only [← lo32_eq_extractLsb']
  refine ⟨rfl, rfl, rfl, rfl, rfl, rfl, rfl, rfl, rfl, rfl, rfl, rfl, rfl, rfl, rfl, rfl, rfl, fun off h => ?_⟩
  rw [hostReadValue, regAt_unmapped h]
  rfl

/-! ## STATUS and FOLD_V -/

/-- The low part of two fields put together. -/
theorem append_low {v w : Nat} (x : BitVec v) (y : BitVec w) : (x ++ y).extractLsb' 0 w = y := by
  rw [BitVec.extractLsb'_append_eq_of_add_le (by omega), BitVec.extractLsb'_eq_self]

/-- A field of the high part. -/
theorem append_high {v w len start : Nat} (x : BitVec v) (y : BitVec w) :
    (x ++ y).extractLsb' (w + start) len = x.extractLsb' start len := by
  rw [BitVec.extractLsb'_append_eq_of_le (by omega), Nat.add_sub_cancel_left]

/-- The fields above the four flags of STATUS. -/
theorem flags_high {v : Nat} (x : BitVec v) (a b c d : Bool) (start len : Nat) :
    (x ++ BitVec.ofBool a ++ BitVec.ofBool b ++ BitVec.ofBool c ++ BitVec.ofBool d).extractLsb' (4 + start) len =
      x.extractLsb' start len := by
  rw [show 4 + start = 1 + (1 + (1 + (1 + start))) by omega, append_high, append_high, append_high, append_high]

/-- The four flags of STATUS, the last one lowest. -/
theorem flags_low {v : Nat} (x : BitVec v) (a b c d : Bool) (i : Nat) (hi : i < 4) :
    (x ++ BitVec.ofBool a ++ BitVec.ofBool b ++ BitVec.ofBool c ++ BitVec.ofBool d).getLsbD i = [d, c, b, a][i] := by
  simp only [BitVec.getLsbD_append]
  match i with
  | 0 | 1 | 2 | 3 => simp

theorem statusWord_flags (s : State) :
    s.statusWord.getLsbD 0 = s.busy ∧ s.statusWord.getLsbD 1 = s.done ∧ s.statusWord.getLsbD 2 = s.fault ∧
      s.statusWord.getLsbD 3 = s.cerr :=
  have h := flags_low (0#20 ++ s.phase.code ++ s.fcodeBits) s.cerr s.fault s.done s.busy
  ⟨h 0 (by decide), h 1 (by decide), h 2 (by decide), h 3 (by decide)⟩

theorem statusWord_fields (s : State) : s.statusWord.extractLsb' 4 4 = s.fcodeBits ∧
    s.statusWord.extractLsb' 8 4 = s.phase.code ∧ s.statusWord.extractLsb' 12 20 = 0#20 := by
  have h := flags_high (0#20 ++ s.phase.code ++ s.fcodeBits) s.cerr s.fault s.done s.busy
  refine ⟨(h 0 4).trans (append_low _ _), (h 4 4).trans ?_, (h 8 20).trans ?_⟩
  · exact (append_high (start := 0) _ _).trans (append_low _ _)
  · exact (append_high (start := 4) _ _).trans ((append_high (start := 0) _ _).trans BitVec.extractLsb'_eq_self)

theorem foldWord_fields (s : State) :
    s.foldWord.extractLsb' 0 8 = s.n ∧ s.foldWord.extractLsb' 8 8 = s.ja ∧ s.foldWord.extractLsb' 16 8 = s.jb ∧
    s.foldWord.extractLsb' 24 8 = 0#8 := by
  have h (start : Nat) : s.foldWord.extractLsb' (8 + start) 8 = (0#8 ++ s.jb ++ s.ja).extractLsb' start 8 :=
    append_high _ _
  have h' (start : Nat) : s.foldWord.extractLsb' (8 + (8 + start)) 8 = (0#8 ++ s.jb).extractLsb' start 8 :=
    (h _).trans (append_high _ _)
  refine ⟨append_low _ _, (h 0).trans (append_low _ _), (h' 0).trans (append_low _ _), (h' 8).trans ?_⟩
  exact (append_high (start := 0) _ _).trans BitVec.extractLsb'_eq_self
/-- The codes in FCODE are those of R142, 0 for no fault. -/
theorem fcodeBits_le (s : State) : s.fcodeBits.toNat ≤ 6 := by
  unfold State.fcodeBits
  cases s.fcode with
  | none => decide
  | some c => cases c <;> decide

/-- A phase of a run is neither P_IDLE nor P_FAULT (R43). -/
theorem phaseInv_code {s : State} (h : s.phaseInv) : 1 ≤ s.phase.code.toNat ∧ s.phase.code.toNat ≤ 11 := by
  cases hp : s.phase
  case idle | fault => simp [State.phaseInv, hp] at h
  all_goals decide

/-- Settles O10: the codes by evaluation, the fields of the two words, and R43 from the invariant's own clauses. -/
theorem statusAndFoldFields : Obligations.StatusAndFoldFields := by
  refine ⟨by decide, fun s => ?_, fun s => ?_, fun s h => ⟨fun hb => ?_, fun hf => ?_, fun hb hf => ?_⟩⟩
  · refine ⟨?_, ?_, ?_, ?_, ?_, ?_, ?_⟩ <;> intro h <;> rw [State.fcodeBits, h] <;> rfl
  · obtain ⟨hbusy, hdone, hfault, hcerr⟩ := statusWord_flags s
    obtain ⟨hfcode, hphase, hzero⟩ := statusWord_fields s
    obtain ⟨hn, hja, hjb, hzero'⟩ := foldWord_fields s
    exact ⟨hbusy, hdone, hfault, hcerr, hfcode, hphase, hzero, hn, hja, hjb, hzero', fcodeBits_le s⟩
  · obtain ⟨hf, hd, hp⟩ := h.busyRun hb
    exact ⟨hf, hd, phaseInv_code hp⟩
  · obtain ⟨hb, hp⟩ := h.faultStop hf
    exact ⟨hb, by rw [hp]; rfl⟩
  · rw [h.idleRest hb hf]
    rfl

/-! ## Bus addresses -/

/-- `WINDOW_BASE` is a multiple of 128, whatever the open constant is (R13). -/
theorem windowBase_toNat : Config.windowBase.toNat = 128 * Config.windowIndex.toNat := by
  have := Config.windowIndex.isLt
  rw [Config.windowBase, BitVec.toNat_shiftLeft, BitVec.toNat_setWidth, Nat.shiftLeft_eq]
  omega

theorem busAddress_eq (off : Offset) : busAddress off = Config.windowBase + BitVec.ofNat 64 (4 * off.val) := by
  rw [busAddress, BitVec.ofNat_mul]
  rfl

/-- The distance of an offset's bus address from the base. -/
theorem busAddress_sub_base (off : Offset) : (busAddress off - Config.windowBase).toNat = 4 * off.val := by
  have := off.isLt
  rw [busAddress_eq, BitVec.add_comm, BitVec.add_sub_cancel, BitVec.toNat_ofNat, Nat.mod_eq_of_lt (by omega)]

/-- The distance from the base decides which offset an access reaches, if any (R54). -/
theorem offsetOfBus_eq_some {a : Addr} {off : Offset} :
    offsetOfBus a = some off ↔ (a - Config.windowBase).toNat = 4 * off.val := by
  have := off.isLt
  unfold offsetOfBus
  split
  case isTrue h =>
    rw [Option.some_inj, Fin.ext_iff, Fin.val_ofNat]
    omega
  case isFalse h => exact ⟨nofun, fun h' => absurd h' (by omega)⟩

/-- Since the base is a multiple of 4, an access is misaligned exactly when its distance from the base is. -/
theorem sub_windowBase_mod_four (a : Addr) : (a - Config.windowBase).toNat % 4 = a.toNat % 4 := by
  have := Config.windowIndex.isLt
  rw [BitVec.toNat_sub, windowBase_toNat]
  omega

/-- Settles O11: the distance from the base takes an address to its offset and back. -/
theorem windowBusAddresses : Obligations.WindowBusAddresses := by
  refine ⟨fun off => ⟨busAddress_eq off, offsetOfBus_eq_some.mpr (busAddress_sub_base off)⟩, fun a off h => ?_, ?_,
    fun a h => ?_⟩
  · have hdist : a - Config.windowBase = busAddress off - Config.windowBase :=
      BitVec.eq_of_toNat_eq ((offsetOfBus_eq_some.mp h).trans (busAddress_sub_base off).symm)
    rw [← BitVec.sub_add_cancel a Config.windowBase, hdist, BitVec.sub_add_cancel]
  · rw [windowBase_toNat]
    exact Nat.mul_mod_right 128 _
  · rw [← sub_windowBase_mod_four] at h
    rw [offsetOfBus, if_neg (by omega)]

end Sys2Proof.Machine
end

section
/-! PROOFS. Who changes external memory: nobody but another writer (O43), and what that writer changes (O44). -/

open Sys2Proof Sys2Proof.Machine

namespace Sys2Proof.Machine

/-! ## Moves that keep memory -/

/-- No operation writes memory or the parameters. -/
theorem exec_mem_cfg {i : Instr} {s t : State} (h : exec i s = .next t) : t.mem = s.mem ∧ t.cfg = s.cfg := by
  obtain ⟨c, rfl⟩ | hc := exec_cases h
  · exact ⟨rfl, rfl⟩
  · cases hc <;> exact ⟨rfl, rfl⟩

theorem engineStep_mem_cfg {s t : State} (h : engineStep s = .next t) : t.mem = s.mem ∧ t.cfg = s.cfg := by
  obtain ⟨-, rfl⟩ | ⟨-, -, rfl⟩ | ⟨p, -, -, rfl⟩ | ⟨op, p, u, -, -, hu, rfl⟩ | ⟨u, -, -, hu, rfl⟩ :=
    engineStep_cases h
  case inl | inr.inl | inr.inr.inl => exact ⟨rfl, rfl⟩
  all_goals
    obtain ⟨hmem, hcfg⟩ := exec_mem_cfg hu
    split <;> exact ⟨hmem, hcfg⟩

theorem hostWrite_mem_cfg {s t : State} {off : Offset} {v : Word32} (h : hostWrite s off v = .next t) :
    t.mem = s.mem ∧ t.cfg = s.cfg := by
  obtain rfl | ⟨-, hc⟩ | ⟨-, buf, len, seed, rfl⟩ := hostWrite_cases h
  · exact ⟨rfl, rfl⟩
  · obtain rfl | ⟨i, -, -, -, he⟩ := command_cases hc
    · exact ⟨rfl, rfl⟩
    · exact exec_mem_cfg he
  · exact ⟨rfl, rfl⟩

/-- A move keeps the parameters, and memory too unless it is another writer's (R61). -/
theorem takeMove_mem_cfg {m : Move} {s t : State} (h : takeMove m s = .next t) :
    t.cfg = s.cfg ∧ ((∀ a bs, m ≠ .memWrite a bs) → t.mem = s.mem) := by
  cases m with
  | hostWrite off v =>
    obtain ⟨hmem, hcfg⟩ := hostWrite_mem_cfg h
    exact ⟨hcfg, fun _ => hmem⟩
  | hostRead off => cases h; exact ⟨rfl, fun _ => rfl⟩
  | engine =>
    obtain ⟨hmem, hcfg⟩ := engineStep_mem_cfg h
    exact ⟨hcfg, fun _ => hmem⟩
  | memWrite a bs => cases h; exact ⟨rfl, fun hne => absurd rfl (hne a bs)⟩
  | hwReset => cases h; exact ⟨rfl, fun _ => rfl⟩

/-- The move taken next is another writer's only where the schedule says so. -/
theorem nextMove_ne_memWrite {s : State} (h : ∀ a bs ms, s.schedule ≠ .memWrite a bs :: ms) (a : Addr)
    (bs : List Byte) : (nextMove s).1 ≠ .memWrite a bs := by
  cases hs : s.schedule with
  | nil => rw [nextMove_nil hs]; nofun
  | cons m ms =>
    rw [nextMove_cons hs]
    exact fun hm => h a bs ms (hm ▸ hs)

/-- Settles O43: taking the move off the schedule touches neither field, and `takeMove_mem_cfg` is the move. -/
theorem engineNeverWritesMemory : Obligations.EngineNeverWritesMemory := by
  intro s t hstep
  obtain ⟨hcfg, hmem⟩ := takeMove_mem_cfg hstep
  obtain ⟨ms, hms⟩ := nextMove_state s
  rw [hms] at hcfg hmem
  refine ⟨hcfg, fun hne => ?_⟩
  have hkept : t.mem = s.mem := hmem (nextMove_ne_memWrite hne)
  exact ⟨hkept, fun a => by rw [hkept]⟩

/-! ## Another writer's move -/

/-- A store makes no address valid or invalid: `Valid` is the platform's (R57). -/
theorem Memory.valid_store (m : Memory) (a x : Nat) (b : Byte) : (m.store a b).valid x = m.valid x := by
  rw [Memory.valid, Memory.read_store]
  split
  case isTrue h => rw [h.1, h.2]; rfl
  case isFalse => rfl

/-- A store of bytes replaces the valid ones of its range and leaves every other address alone. -/
theorem Memory.read_storeBytes (bs : List Byte) : ∀ (m : Memory) (a x : Nat), (m.storeBytes a bs).read x =
    if a ≤ x ∧ x < a + bs.length ∧ m.valid x = true then bs[x - a]? else m.read x := by
  induction bs with
  | nil =>
    intro m a x
    rw [if_neg (by simp; omega)]
    rfl
  | cons b bs ih =>
    intro m a x
    rw [Memory.storeBytes, ih, Memory.valid_store, Memory.read_store, List.length_cons]
    by_cases hv : m.valid x = true
    · simp only [hv, and_true]
      obtain hx | rfl | hx := Nat.lt_trichotomy x a
      · rw [if_neg (by omega), if_neg (by omega), if_neg (by omega)]
      · rw [if_neg (by omega), if_pos ⟨rfl, hv⟩, if_pos (by omega), Nat.sub_self]
        rfl
      · rw [if_neg (c := x = a ∧ _) (by omega), show x - a = x - (a + 1) + 1 by omega, List.getElem?_cons_succ]
        exact if_congr (by omega) rfl rfl
    · rw [if_neg (by simp [hv]), if_neg (by rintro ⟨rfl, h⟩; exact hv h), if_neg (by simp [hv])]

/-- Settles O44: the move is a store of its bytes, and `Memory.read_storeBytes` says what that leaves to read. -/
theorem otherWritersReplaceValidBytes : Obligations.OtherWritersReplaceValidBytes :=
  fun s a bs _ hs => ⟨s.mem.storeBytes a.toNat bs, step_cons hs, Memory.read_storeBytes bs s.mem a.toNat⟩

end Sys2Proof.Machine
end

section
/-! PROOFS. `MemRead` byte by byte: words of eight bytes, alignment, and the window (O48). -/

open Sys2Proof Sys2Proof.Machine

namespace Sys2Proof.Machine

/-! ## Little-endian words -/

theorem wordOfBytes_cons_byte_zero (b : Byte) (bs : List Byte) : (wordOfBytes (b :: bs)).extractLsb' 0 8 = b := by
  ext j hj
  have : j < 64 := by omega
  simp [wordOfBytes, hj, this]

theorem wordOfBytes_cons_byte_succ (b : Byte) (bs : List Byte) {i : Nat} (hi : i < 7) :
    (wordOfBytes (b :: bs)).extractLsb' (8 * (i + 1)) 8 = (wordOfBytes bs).extractLsb' (8 * i) 8 := by
  refine BitVec.eq_of_getLsbD_eq fun j hj => ?_
  have hlt : 8 * (i + 1) + j < 64 := by omega
  have hge : ¬8 * (i + 1) + j < 8 := by omega
  have hsub : 8 * (i + 1) + j - 8 = 8 * i + j := by omega
  have hout : b.getLsbD (8 * (i + 1) + j) = false := BitVec.getLsbD_of_ge _ _ (by omega)
  simp [wordOfBytes, hj, hlt, hge, hsub, hout, BitVec.getLsbD_eq_getElem (show 8 * i + j < 64 by omega)]

/-- The bytes of a little-endian word are the bytes it was made of, lowest first (R58). -/
theorem wordOfBytes_byte {bs : List Byte} (hbs : bs.length ≤ 8) {i : Nat} (hi : i < bs.length) :
    (wordOfBytes bs).extractLsb' (8 * i) 8 = bs[i] := by
  induction bs generalizing i with
  | nil => cases hi
  | cons b bs ih =>
    rw [List.length_cons] at hbs hi
    cases i with
    | zero => exact wordOfBytes_cons_byte_zero b bs
    | succ i =>
      rw [wordOfBytes_cons_byte_succ b bs (by omega)]
      exact ih (by omega) (by omega)

/-- Two words with the same eight bytes are the same. -/
theorem word64_ext {v w : Word64} (h : ∀ i, i < 8 → v.extractLsb' (8 * i) 8 = w.extractLsb' (8 * i) 8) : v = w := by
  ext k hk
  have hbyte := congrArg (·.getLsbD (k % 8)) (h (k / 8) (by omega))
  simpa [Nat.mod_lt, Nat.div_add_mod, hk] using hbyte

/-! ## Reads of several bytes -/

/-- The bytes read are those at the addresses from `a` up. -/
theorem Memory.readBytes_getElem? {m : Memory} {count : Nat} :
    ∀ {a : Nat} {bs : List Byte}, m.readBytes a count = some bs → ∀ i, i < count → m.read (a + i) = bs[i]? := by
  induction count with
  | zero => exact fun _ i hi => absurd hi (by omega)
  | succ count ih =>
    intro a bs h i hi
    rw [Memory.readBytes] at h
    split at h
    case h_2 => cases h
    case h_1 b bs' hb hbs =>
      cases h
      cases i with
      | zero => exact hb
      | succ i =>
        rw [List.getElem?_cons_succ, ← ih hbs i (by omega)]
        congr 1
        omega

/-- A read of several bytes fails exactly where one of them is not valid. -/
theorem Memory.readBytes_eq_none {m : Memory} {count : Nat} :
    ∀ {a : Nat}, m.readBytes a count = none ↔ ∃ i, i < count ∧ m.read (a + i) = none := by
  induction count with
  | zero => exact ⟨nofun, fun ⟨i, hi, _⟩ => absurd hi (by omega)⟩
  | succ count ih =>
    intro a
    have hsucc : (∃ i, i < count + 1 ∧ m.read (a + i) = none) ↔
        m.read a = none ∨ ∃ i, i < count ∧ m.read (a + 1 + i) = none := by
      simp only [Nat.exists_lt_succ_left, Nat.add_zero, Nat.add_assoc, Nat.add_comm 1]
    rw [hsucc, ← ih, Memory.readBytes]
    cases m.read a <;> cases m.readBytes (a + 1) count <;> simp

/-! ## `MemRead` -/

theorem memRead1_eq_ok (m : Memory) (a : Addr) (b : Byte) : memRead1 m a = .ok b ↔ m.read a.toNat = some b := by
  obtain ⟨b', hb, hm⟩ | ⟨hb, hm⟩ := memRead1_cases m a <;> simp [hb, hm]

theorem memRead1_eq_bus (m : Memory) (a : Addr) : memRead1 m a = .error .bus ↔ m.read a.toNat = none := by
  obtain ⟨b', hb, hm⟩ | ⟨hb, hm⟩ := memRead1_cases m a <;> simp [hb, hm]

theorem memRead8_eq_align (m : Memory) (a : Addr) : memRead8 m a = .error .align ↔ a.toNat % 8 ≠ 0 := by
  rw [ne_eq, ← aligned8_iff]
  obtain ⟨bs, ha, -, hm⟩ | ⟨ha, -, hm⟩ | ⟨ha, hm⟩ := memRead8_cases m a <;> simp [ha, hm]

theorem memRead8_eq_bus (m : Memory) (a : Addr) :
    memRead8 m a = .error .bus ↔ a.toNat % 8 = 0 ∧ ∃ i, i < 8 ∧ m.read (a.toNat + i) = none := by
  rw [← aligned8_iff, ← Memory.readBytes_eq_none]
  obtain ⟨bs, ha, hbs, hm⟩ | ⟨ha, hbs, hm⟩ | ⟨ha, hm⟩ := memRead8_cases m a
  · simp [hbs, hm]
  · simp [ha, hbs, hm]
  · simp [ha, hm]

/-- An eight-byte read that succeeds has found the bytes of its word (R58). -/
theorem memRead8_byte {m : Memory} {a : Addr} {w : Word64} (h : memRead8 m a = .ok w) {i : Nat} (hi : i < 8) :
    m.read (a.toNat + i) = some (w.extractLsb' (8 * i) 8) := by
  obtain ⟨bs, -, hbs, hm⟩ | ⟨-, -, hm⟩ | ⟨-, hm⟩ := memRead8_cases m a <;> rw [hm] at h <;> cases h
  have hlen := Memory.readBytes_length hbs
  rw [Memory.readBytes_getElem? hbs i hi, wordOfBytes_byte hlen.le (by omega), List.getElem?_eq_getElem]

theorem memRead8_eq_ok (m : Memory) (a : Addr) (w : Word64) : memRead8 m a = .ok w ↔
    a.toNat % 8 = 0 ∧ ∀ i, i < 8 → m.read (a.toNat + i) = some (w.extractLsb' (8 * i) 8) := by
  constructor
  · intro h
    refine ⟨?_, fun i hi => memRead8_byte h hi⟩
    by_contra ha
    rw [(memRead8_eq_align m a).mpr ha] at h
    cases h
  · intro ⟨ha, hbytes⟩
    obtain ⟨bs, -, -, hm⟩ | ⟨-, -, hm⟩ | ⟨-, hm⟩ := memRead8_cases m a
    · rw [hm, word64_ext fun i hi => Option.some.inj ((memRead8_byte hm hi).symm.trans (hbytes i hi))]
    · obtain ⟨-, i, hi, hnone⟩ := (memRead8_eq_bus m a).mp hm
      rw [hbytes i hi] at hnone
      cases hnone
    · exact absurd ha ((memRead8_eq_align m a).mp hm)

/-! ## Misaligned lanes -/

/-- The words of a lane are aligned as PTR is, wrap or not: 8 divides 2^64. -/
theorem laneAAddr_mod_eight (s : State) : s.laneAAddr.toNat % 8 = s.ptr.toNat % 8 := by
  simp only [State.laneAAddr, BitVec.ofNat_eq_ofNat, BitVec.toNat_add, BitVec.toNat_mul, BitVec.toNat_ofNat]
  omega

theorem laneBAddr_mod_eight (s : State) : s.laneBAddr.toNat % 8 = s.ptr.toNat % 8 := by
  simp only [State.laneBAddr, BitVec.ofNat_eq_ofNat, BitVec.toNat_add, BitVec.toNat_mul, BitVec.toNat_ofNat]
  omega

/-- A lane step in its turn with PTR misaligned takes the fault entry with F_ALIGN (R59, log entry 7). -/
theorem lanes_misaligned {s : State} (hn : s.n ≠ 0) (hptr : s.ptr.toNat % 8 ≠ 0) :
    (s.ja.toNat < s.n.toNat → exec .sa s = .next (s.raiseFault .align)) ∧
    (s.jb.toNat + 1 < s.n.toNat → exec .sb s = .next (s.raiseFault .align)) ∧
    (s.ja = s.n → s.jb.toNat + 1 = s.n.toNat → exec .mrg s = .next (s.raiseFault .align)) := by
  have hA := (memRead8_eq_align s.mem s.laneAAddr).mpr (by rwa [laneAAddr_mod_eight])
  have hB := (memRead8_eq_align s.mem s.laneBAddr).mpr (by rwa [laneBAddr_mod_eight])
  refine ⟨fun hja => ?_, fun hjb => ?_, fun hja hjb => ?_⟩
  · rw [exec, execSa, if_neg (by simpa [hja] using hn), hA]
    rfl
  · rw [exec, execSb, if_neg (by simpa [hjb] using hn), hB]
    rfl
  · rw [exec, execMrg, if_neg (by simpa [hja, ← hjb] using hn), hB]
    rfl

/-! ## The window -/

/-- No byte of the window is valid in a state of the invariant (R65). -/
theorem State.Inv.read_window {s : State} (h : s.Inv) {base : Addr} (hbase : s.cfg.windowView = some base) {a : Nat}
    (hlow : base.toNat ≤ a) (hhigh : a < base.toNat + 128) : s.mem.read a = none :=
  Memory.read_window h.windowExcluded (by simp [showsWindow, hbase, hlow, hhigh])

/-- Settles O48: `MemRead` byte by byte, the lanes of a misaligned PTR, and the window's bytes, which are not valid. -/
theorem eightByteReadsAreAligned : Obligations.EightByteReadsAreAligned := by
  refine ⟨fun m a => ⟨memRead8_eq_ok m a, memRead8_eq_bus m a, memRead8_eq_align m a, memRead1_eq_ok m a,
    memRead1_eq_bus m a⟩, fun s => lanes_misaligned, fun s base a hs hbase => ⟨fun hlow hhigh => ?_,
    fun hal hlow hhigh => ?_⟩⟩
  · exact (memRead1_eq_bus s.mem a).mpr (hs.read_window hbase hlow hhigh)
  · -- The first byte of the word that lies in the window, counted from `a`.
    exact (memRead8_eq_bus s.mem a).mpr
      ⟨hal, base.toNat - a.toNat, by omega, hs.read_window hbase (by omega) (by omega)⟩

end Sys2Proof.Machine
end

section
/-! PROOFS. An operation with another memory behind it: it does the same where its own read does (O42). -/

open Sys2Proof Sys2Proof.Machine

namespace Sys2Proof.Machine

/-- The state with another external memory. -/
def State.withMem (s : State) (m : Memory) : State := { s with mem := m }

section

variable {s t : State} {m : Memory}

@[simp] theorem withMem_cfg : (s.withMem m).cfg = s.cfg := rfl
@[simp] theorem withMem_n : (s.withMem m).n = s.n := rfl

/-! ## How the results of an operation's checks depend on memory -/

/-- If the checks with the other memory give the same result but for the memory, so does the operation. -/
theorem complete_withMem {r r' : Except FaultCode State} (h : complete s r = .next t)
    (hr : r.map (·.withMem m) = r') : complete (s.withMem m) r' = .next (t.withMem m) := by
  subst hr
  cases r <;> cases h <;> rfl

/-- A check that does not read memory. -/
theorem ite_withMem {c : Prop} [Decidable c] {x x' y y' : Except FaultCode State}
    (hx : c → x.map (·.withMem m) = x') (hy : ¬c → y.map (·.withMem m) = y') :
    (if c then x else y).map (·.withMem m) = if c then x' else y' := by
  split
  · exact hx ‹_›
  · exact hy ‹_›

/-! ## The addresses an operation reads -/

theorem laneAAddr_toNat (h : s.ptr.toNat + 8 * s.ja.toNat < 2 ^ 64) :
    s.laneAAddr.toNat = s.ptr.toNat + 8 * s.ja.toNat := by
  simp only [State.laneAAddr, BitVec.ofNat_eq_ofNat, BitVec.toNat_add, BitVec.toNat_mul, BitVec.toNat_ofNat,
    BitVec.toNat_setWidth]
  omega

theorem laneBAddr_toNat (h : s.ptr.toNat + 8 * s.n.toNat + 8 * s.jb.toNat < 2 ^ 64) :
    s.laneBAddr.toNat = s.ptr.toNat + 8 * s.n.toNat + 8 * s.jb.toNat := by
  simp only [State.laneBAddr, BitVec.ofNat_eq_ofNat, BitVec.toNat_add, BitVec.toNat_mul, BitVec.toNat_ofNat,
    BitVec.toNat_setWidth]
  omega

/-- The other memory has the bytes of the remaining buffer. -/
def State.AgreesInBuffer (s : State) (m : Memory) : Prop :=
  ∀ a, s.ptr.toNat ≤ a → a < s.ptr.toNat + s.rem.toNat → m.read a = s.mem.read a

/-- The byte S8 reads is the first of the buffer (R107). -/
theorem State.AgreesInBuffer.byte (h : s.AgreesInBuffer m) (hrem : s.rem ≠ 0) :
    memRead1 (s.withMem m).mem (s.withMem m).ptr = memRead1 s.mem s.ptr :=
  memRead1_congr (h _ le_rfl (Nat.lt_add_of_pos_right (one_le_toNat hrem)))

/-- A word inside the buffer reads the same. -/
theorem State.AgreesInBuffer.word (h : s.AgreesInBuffer m) {a : Addr} (hlow : s.ptr.toNat ≤ a.toNat)
    (hhigh : a.toNat + 8 ≤ s.ptr.toNat + s.rem.toNat) : memRead8 (s.withMem m).mem a = memRead8 s.mem a :=
  memRead8_congr fun x h1 h2 => h x (by omega) (by omega)

/-- The word SA reads lies in the first half of the open block, which lies in the buffer (R111, R112). -/
theorem State.AgreesInBuffer.laneA (h : s.AgreesInBuffer m) (hs : s.Inv) (hja : s.ja.toNat < s.n.toNat) :
    memRead8 (s.withMem m).mem (s.withMem m).laneAAddr = memRead8 s.mem s.laneAAddr := by
  have hext : s.ptr.toNat + s.rem.toNat < 2 ^ 64 := hs.extent
  have hfit := hs.blockFits
  have haddr := laneAAddr_toNat (s := s) (by omega)
  exact h.word (a := s.laneAAddr) (by omega) (by omega)

/-- The word SB or MRG reads lies in the second half (R113, R117). -/
theorem State.AgreesInBuffer.laneB (h : s.AgreesInBuffer m) (hs : s.Inv) (hjb : s.jb.toNat < s.n.toNat) :
    memRead8 (s.withMem m).mem (s.withMem m).laneBAddr = memRead8 s.mem s.laneBAddr := by
  have hext : s.ptr.toNat + s.rem.toNat < 2 ^ 64 := hs.extent
  have hfit := hs.blockFits
  have haddr := laneBAddr_toNat (s := s) (by omega)
  exact h.word (a := s.laneBAddr) (by omega) (by omega)

/-! ## The operations -/

/-- An operation does the same with the other memory, since its checks and its one read do. -/
theorem exec_withMem {i : Instr} (hm : s.AgreesInBuffer m) (hs : s.Inv) (h : exec i s = .next t) :
    exec i (s.withMem m) = .next (t.withMem m) := by
  cases i
  case nop | s8i | fin | clm | crc | srst => cases h; rfl
  case init => exact complete_withMem h (ite_withMem (fun _ => rfl) fun _ => rfl)
  case fset =>
    exact complete_withMem h (ite_withMem (fun _ => rfl) fun _ => ite_withMem (fun _ => rfl) fun _ =>
      ite_withMem (fun _ => rfl) fun _ => rfl)
  case adv => exact complete_withMem h (ite_withMem (fun _ => rfl) fun _ => rfl)
  case lut =>
    refine complete_withMem h (ite_withMem (fun _ => rfl) fun _ => ?_)
    rw [withMem_cfg, withMem_n]
    cases romRead s.cfg (s.n.toNat - 1) <;> rfl
  case luti index =>
    refine complete_withMem h ?_
    rw [withMem_cfg]
    cases romRead s.cfg index <;> rfl
  case s8 =>
    refine complete_withMem h (ite_withMem (fun _ => rfl) fun _ => ite_withMem (fun _ => rfl) fun hrem => ?_)
    rw [hm.byte hrem]
    cases memRead1 s.mem s.ptr <;> rfl
  case s64 =>
    refine complete_withMem h (ite_withMem (fun _ => rfl) fun _ => ite_withMem (fun _ => rfl) fun hrem =>
      ite_withMem (fun _ => ?_) fun _ => rfl)
    rw [show memRead8 (s.withMem m).mem (s.withMem m).ptr = _ from hm.word (a := s.ptr) le_rfl (by omega)]
    cases memRead8 s.mem s.ptr <;> rfl
  case sa =>
    refine complete_withMem h (ite_withMem (fun _ => rfl) fun hok => ?_)
    rw [hm.laneA hs (by omega)]
    cases memRead8 s.mem s.laneAAddr <;> rfl
  case sb =>
    refine complete_withMem h (ite_withMem (fun _ => rfl) fun hok => ?_)
    rw [hm.laneB hs (by omega)]
    cases memRead8 s.mem s.laneBAddr <;> rfl
  case mrg =>
    refine complete_withMem h (ite_withMem (fun _ => rfl) fun hok => ?_)
    obtain ⟨hn, -, hjb⟩ : s.n ≠ 0 ∧ s.ja = s.n ∧ s.jb.toNat = s.n.toNat - 1 := by simpa using hok
    have hpos := one_le_toNat hn
    rw [hm.laneB hs (by omega)]
    cases memRead8 s.mem s.laneBAddr <;> rfl

end

/-- Settles O42: by `exec_withMem`, every read of an operation lying in the remaining buffer. -/
theorem readsStayInsideTheBuffer : Obligations.ReadsStayInsideTheBuffer :=
  fun _ _ _ _ hs hm h => exec_withMem hm hs h

end Sys2Proof.Machine
end

section
/-! PROOFS. The decoder against the opcode map: words by their match and mask (O3), and the ILLEGAL words (O4). -/

namespace Sys2Proof

/-! ## The fields of a command word -/

theorem opcodeField_toNat (w : Word32) : (opcodeField w).toNat = w.toNat % 256 := by
  simp [opcodeField]

theorem imm8Field_toNat (w : Word32) : (imm8Field w).toNat = w.toNat / 256 % 256 := by
  simp [imm8Field, Nat.shiftRight_eq_div_pow]

theorem zeroFieldZ_toNat (w : Word32) : (zeroFieldZ w).toNat = w.toNat / 256 := by
  simp only [zeroFieldZ, BitVec.extractLsb'_toNat, Nat.shiftRight_eq_div_pow]
  omega

theorem zeroFieldI_toNat (w : Word32) : (zeroFieldI w).toNat = w.toNat / 65536 := by
  simp only [zeroFieldI, BitVec.extractLsb'_toNat, Nat.shiftRight_eq_div_pow]
  omega

/-- A word is a bare opcode when every bit above it is zero (R74). -/
theorem eq_setWidth_iff (w : Word32) (op : BitVec 8) :
    w = op.setWidth 32 ↔ opcodeField w = op ∧ zeroFieldZ w = 0#24 := by
  have hop := op.isLt
  simp only [BitVec.toNat_eq, BitVec.toNat_setWidth, opcodeField_toNat, zeroFieldZ_toNat, BitVec.toNat_ofNat]
  omega

/-- The field of format Z is the immediate and the field of format I together (R74, R75). -/
theorem zeroFieldZ_eq_zero_iff (w : Word32) : zeroFieldZ w = 0#24 ↔ imm8Field w = 0#8 ∧ zeroFieldI w = 0#16 := by
  simp only [BitVec.toNat_eq, zeroFieldZ_toNat, imm8Field_toNat, zeroFieldI_toNat, BitVec.toNat_ofNat]
  omega

/-- The mask of format Z keeps every bit, so its rows fix the opcode and the zeros above it (R77). -/
theorem maskZ_eq_iff (w : Word32) (op : BitVec 8) :
    w &&& 0xFFFFFFFF#32 = op.setWidth 32 ↔ opcodeField w = op ∧ zeroFieldZ w = 0#24 := by
  rw [show w &&& 0xFFFFFFFF#32 = w from BitVec.and_allOnes, eq_setWidth_iff]

/-- The fields of a word under the mask of format I: the immediate is dropped and the rest kept (R77). -/
theorem maskI_fields (w : Word32) :
    opcodeField (w &&& 0xFFFF00FF#32) = opcodeField w ∧ imm8Field (w &&& 0xFFFF00FF#32) = 0#8 ∧
      zeroFieldI (w &&& 0xFFFF00FF#32) = zeroFieldI w := by
  simp only [opcodeField, imm8Field, zeroFieldI, BitVec.extractLsb'_and]
  exact ⟨BitVec.and_allOnes, BitVec.and_zero, BitVec.and_allOnes⟩

/-- The rows of format I fix the opcode and the zeros of that format, and no bit of the immediate (R77). -/
theorem maskI_eq_iff (w : Word32) (op : BitVec 8) :
    w &&& 0xFFFF00FF#32 = op.setWidth 32 ↔ opcodeField w = op ∧ zeroFieldI w = 0#16 := by
  obtain ⟨hop, himm, hzero⟩ := maskI_fields w
  rw [eq_setWidth_iff, zeroFieldZ_eq_zero_iff, hop, himm, hzero]
  simp

/-! ## The opcodes of the two formats -/

/-- The operations of format I, which carry the immediate (R76, R77). -/
theorem formatI_eq_some_iff {op imm8 : BitVec 8} {i : Instr} : formatI op imm8 = some i ↔
    (op = 0x04#8 ∧ i = .s8i imm8) ∨ (op = 0x0C#8 ∧ i = .luti imm8.toNat) := by
  rw [BitVec.toNat_eq, BitVec.toNat_eq, eq_comm (a := i), eq_comm (a := i)]
  unfold formatI
  split <;> simp_all

/-- Format Z takes an operation's own opcode only (R77). -/
theorem formatZ_eq_some {op : BitVec 8} {i : Instr} (h : formatZ op = some i) : op = opcodeOf i := by
  unfold formatZ at h
  split at h <;> cases h
  all_goals exact BitVec.eq_of_toNat_eq ‹_›

/-- The opcodes of format I (R77). -/
theorem formatI_isSome_iff (op imm8 : BitVec 8) :
    (formatI op imm8).isSome ↔ op.toNat = 0x04 ∨ op.toNat = 0x0C := by
  unfold formatI
  split <;> simp_all

/-- The opcodes of format Z (R77). -/
theorem formatZ_isSome_iff (op : BitVec 8) :
    (formatZ op).isSome ↔ op.toNat ≤ 0x03 ∨ op.toNat = 0x05 ∨ (0x08 ≤ op.toNat ∧ op.toNat ≤ 0x0B) ∨
      (0x0D ≤ op.toNat ∧ op.toNat ≤ 0x10) ∨ op.toNat = 0x1F := by
  unfold formatZ
  split <;> simp_all
  omega

/-- No opcode belongs to both formats (R77). -/
theorem formatI_eq_none_of_formatZ {op : BitVec 8} {i : Instr} (h : formatZ op = some i) (imm8 : BitVec 8) :
    formatI op imm8 = none := by
  have hz := (formatZ_isSome_iff op).1 (Option.isSome_of_eq_some h)
  rw [← Option.not_isSome_iff_eq_none, formatI_isSome_iff]
  omega

/-! ## The decoder, format by format (R78) -/

section
variable {w : Word32} {i : Instr}

theorem decode_of_formatI (h : formatI (opcodeField w) (imm8Field w) = some i) :
    decode w = if zeroFieldI w = 0#16 then .ok i else .error .fieldNotZero := by
  simp only [decode, h]

theorem decode_of_formatZ (h : formatZ (opcodeField w) = some i) :
    decode w = if zeroFieldZ w = 0#24 then .ok i else .error .fieldNotZero := by
  simp only [decode, formatI_eq_none_of_formatZ h, h]

theorem decode_of_reserved (hi : formatI (opcodeField w) (imm8Field w) = none)
    (hz : formatZ (opcodeField w) = none) : decode w = .error .reservedOpcode := by
  simp only [decode, hi, hz]

/-- What a word that decodes has passed: its format gave the operation, and the field of that format is zero. -/
theorem decode_eq_ok_iff : decode w = .ok i ↔
    (formatI (opcodeField w) (imm8Field w) = some i ∧ zeroFieldI w = 0#16) ∨
      (formatZ (opcodeField w) = some i ∧ zeroFieldZ w = 0#24) := by
  cases hi : formatI (opcodeField w) (imm8Field w) with
  | some j =>
    have hz : formatZ (opcodeField w) ≠ some i := fun hz => by simp [formatI_eq_none_of_formatZ hz] at hi
    rw [decode_of_formatI hi]
    split <;> simp [*]
  | none =>
    cases hz : formatZ (opcodeField w) with
    | some j =>
      rw [decode_of_formatZ hz]
      split <;> simp [*]
    | none => simp [decode_of_reserved hi hz]

/-- A row of format Z is selected by its opcode under the full mask (R77). -/
theorem decode_eq_ok_iff_maskZ (hrow : formatZ (opcodeOf i) = some i) :
    decode w = .ok i ↔ w &&& 0xFFFFFFFF#32 = (opcodeOf i).setWidth 32 := by
  rw [maskZ_eq_iff, decode_eq_ok_iff]
  constructor
  · rintro (⟨hi, -⟩ | ⟨hz, hzero⟩)
    · obtain ⟨-, rfl⟩ | ⟨-, rfl⟩ := formatI_eq_some_iff.1 hi <;> cases hrow
    · exact ⟨formatZ_eq_some hz, hzero⟩
  · rintro ⟨hop, hzero⟩
    exact .inr ⟨hop ▸ hrow, hzero⟩

/-- An operation that is not of format Z is decoded in format I only. -/
theorem decode_eq_ok_iff_formatI (hrow : formatZ (opcodeOf i) = none) :
    decode w = .ok i ↔ formatI (opcodeField w) (imm8Field w) = some i ∧ zeroFieldI w = 0#16 := by
  have hz : formatZ (opcodeField w) ≠ some i := fun hz => by simp [← formatZ_eq_some hz, hz] at hrow
  simp [decode_eq_ok_iff, hz]

/-- The row of S8I is selected with any immediate, which is its byte (R76, R77). -/
theorem decode_s8i_iff (byte : Byte) :
    decode w = .ok (.s8i byte) ↔ w &&& 0xFFFF00FF#32 = 0x00000004#32 ∧ byte = imm8Field w := by
  rw [show 0x00000004#32 = (0x04#8).setWidth 32 from rfl, maskI_eq_iff, decode_eq_ok_iff_formatI rfl,
    formatI_eq_some_iff]
  simp [and_right_comm]

/-- The row of LUTI is selected with any immediate, which is its index (R76, R77). -/
theorem decode_luti_iff (index : Nat) :
    decode w = .ok (.luti index) ↔ w &&& 0xFFFF00FF#32 = 0x0000000C#32 ∧ index = (imm8Field w).toNat := by
  rw [show 0x0000000C#32 = (0x0C#8).setWidth 32 from rfl, maskI_eq_iff, decode_eq_ok_iff_formatI rfl,
    formatI_eq_some_iff]
  simp [and_right_comm]

end

/-- Settles O3: every row of format Z is `decode_eq_ok_iff_maskZ` at its operation; the two rows of format I carry the
immediate besides. -/
theorem decodeMatchesOpcodeMap : Obligations.DecodeMatchesOpcodeMap := fun _ =>
  ⟨decode_eq_ok_iff_maskZ rfl, decode_eq_ok_iff_maskZ rfl, decode_eq_ok_iff_maskZ rfl, decode_eq_ok_iff_maskZ rfl,
    decode_s8i_iff, decode_eq_ok_iff_maskZ rfl, decode_eq_ok_iff_maskZ rfl, decode_eq_ok_iff_maskZ rfl,
    decode_eq_ok_iff_maskZ rfl, decode_eq_ok_iff_maskZ rfl, decode_luti_iff, decode_eq_ok_iff_maskZ rfl,
    decode_eq_ok_iff_maskZ rfl, decode_eq_ok_iff_maskZ rfl, decode_eq_ok_iff_maskZ rfl, decode_eq_ok_iff_maskZ rfl⟩

/-- Settles O4: the opcode decides the format, if any, and the format decides which field has to be zero. -/
theorem reservedAndPaddedWordsAreIllegal : Obligations.ReservedAndPaddedWordsAreIllegal := by
  rintro w op (rfl : op = (opcodeField w).toNat)
  have hI := formatI_isSome_iff (opcodeField w) (imm8Field w)
  have hZ := formatZ_isSome_iff (opcodeField w)
  refine ⟨fun hop => ?_, fun hop hfield => ?_, fun hop hfield => ?_⟩
  · refine decode_of_reserved ?_ ?_
    · rw [← Option.not_isSome_iff_eq_none, hI]
      omega
    · rw [← Option.not_isSome_iff_eq_none, hZ]
      omega
  · obtain ⟨i, hi⟩ := Option.isSome_iff_exists.1 (hZ.2 hop)
    exact (decode_of_formatZ hi).trans (if_neg hfield)
  · obtain ⟨i, hi⟩ := Option.isSome_iff_exists.1 (hI.2 hop)
    exact (decode_of_formatI hi).trans (if_neg hfield)

end Sys2Proof
end

section
/-! PROOFS. The single-bit and native steps iterated: linear over xor (O49). -/

open Sys2Proof Sys2Proof.Machine

namespace Sys2Proof.Machine

theorem zext64_lo32 {v : Word64} (hv : v.toNat < 2 ^ 32) : zext64 (lo32 v) = v := by
  refine BitVec.eq_of_toNat_eq ?_
  rw [zext64_toNat, lo32, BitVec.toNat_setWidth, Nat.mod_eq_of_lt hv]

theorem lo32_xor (a b : Word64) : lo32 (a ^^^ b) = lo32 a ^^^ lo32 b := BitVec.setWidth_xor

/-! ## Iterating the single-bit steps -/

theorem lfsr_xor (r s : Word32) (k : Nat) : lfsr (r ^^^ s) k = lfsr r k ^^^ lfsr s k := by
  induction k with
  | zero => rfl
  | succ k ih => rw [lfsr_succ, ih, lfsr1_xor, ← lfsr_succ, ← lfsr_succ]

@[simp] theorem lfsr_of_zero (k : Nat) : lfsr 0 k = 0 := by
  induction k with
  | zero => rfl
  | succ k ih => rw [lfsr_succ, ih]; decide

theorem lfsr_add (r : Word32) (j k : Nat) : lfsr r (j + k) = lfsr (lfsr r j) k := by
  induction k with
  | zero => rfl
  | succ k ih => rw [← Nat.add_assoc, lfsr_succ, ih, ← lfsr_succ]

theorem wordShifts_xor (v w : Word64) (i : Nat) : wordShifts (v ^^^ w) i = wordShifts v i ^^^ wordShifts w i := by
  induction i with
  | zero => rfl
  | succ i ih => rw [wordShifts_succ, ih, wordShift_xor, ← wordShifts_succ, ← wordShifts_succ]

theorem wordShifts_add (v : Word64) (i j : Nat) : wordShifts v (i + j) = wordShifts (wordShifts v i) j := by
  induction j with
  | zero => rfl
  | succ j ih => rw [← Nat.add_assoc, wordShifts_succ, ih, ← wordShifts_succ]

theorem wordShift_zext64 (r : Word32) : wordShift (zext64 r) = zext64 (lfsr1 r) := by
  have hbit : (zext64 r).getLsbD 0 = r.getLsbD 0 := by simp [zext64]
  have hshift : zext64 r >>> 1 = zext64 (r >>> 1) := by
    refine BitVec.eq_of_toNat_eq ?_
    simp only [BitVec.toNat_ushiftRight, zext64_toNat]
  rw [wordShift, lfsr1, hbit, hshift, apply_ite zext64, zext64_xor]

/-- On a value of 32 bits the shifts of `step64` are the single-bit steps of `lfsr` (R88, R91). -/
theorem wordShifts_zext64 (r : Word32) (k : Nat) : wordShifts (zext64 r) k = zext64 (lfsr r k) := by
  induction k with
  | zero => rfl
  | succ k ih => rw [wordShifts_succ, ih, wordShift_zext64, ← lfsr_succ]

/-- While the bits shifted out are zero, the shifts of `step64` are plain ones. -/
theorem wordShifts_of_low_zero {v : Word64} {k : Nat} (hv : ∀ i, i < k → v.getLsbD i = false) :
    wordShifts v k = v >>> k := by
  induction k with
  | zero => simp [wordShifts]
  | succ k ih =>
    have hbit : (v >>> k).getLsbD 0 = false := by simpa using hv k (Nat.lt_succ_self k)
    rw [wordShifts_succ, ih fun i hi => hv i (by omega), wordShift, hbit, if_neg Bool.false_ne_true,
      BitVec.shiftRight_add]

/-- The low `k` bits of a word enter the state, and the rest of the word comes down behind them. -/
theorem wordShifts_absorb (s : Word32) (w : Word64) {k : Nat} (hk : k ≤ 32) :
    wordShifts (zext64 s ^^^ w) k = zext64 (lfsr (s ^^^ (w.extractLsb' 0 k).setWidth 32) k) ^^^ (w >>> k) := by
  have hsplit : w = zext64 ((w.extractLsb' 0 k).setWidth 32) ^^^ (w >>> k <<< k) := by
    ext i hi
    by_cases hik : i < k
    · simp [zext64, hik, hi, show i < 32 by omega]
    · simp [zext64, hik, hi, Nat.add_sub_cancel' (Nat.not_lt.mp hik)]
  have hrest : wordShifts (w >>> k <<< k) k = w >>> k := by
    rw [wordShifts_of_low_zero fun i hi => by simp [hi]]
    ext i hi
    simpa using BitVec.lt_of_getLsbD (x := w) (i := k + i)
  calc wordShifts (zext64 s ^^^ w) k
      = wordShifts (zext64 (s ^^^ (w.extractLsb' 0 k).setWidth 32) ^^^ (w >>> k <<< k)) k := by
        rw [zext64_xor, BitVec.xor_assoc, ← hsplit]
    _ = _ := by rw [wordShifts_xor, wordShifts_zext64, hrest]

/-! ## `step64` and `chain64` -/

theorem step64_xor (s1 s2 w1 w2 : Word64) : step64 (s1 ^^^ s2) (w1 ^^^ w2) = step64 s1 w1 ^^^ step64 s2 w2 := by
  rw [step64, step64, step64, ← wordShifts_xor, lo32_xor, zext64_xor]
  ac_rfl

/-- Data xored onto the word of a step enters as by a step of its own from zero. -/
theorem step64_xor_word (s w1 w2 : Word64) : step64 s (w1 ^^^ w2) = step64 0 w1 ^^^ step64 s w2 := by
  rw [← step64_xor]
  exact congrArg (step64 · (w1 ^^^ w2)) BitVec.zero_xor.symm

theorem step64_lo32 (s w : Word64) : step64 (zext64 (lo32 s)) w = step64 s w := by
  rw [step64, lo32_zext64, ← step64]

theorem step64_zero_word (s : Word64) : step64 s 0 = zext64 (lfsr (lo32 s) 64) := by
  exact (congrArg (wordShifts · 64) BitVec.xor_zero).trans (wordShifts_zext64 (lo32 s) 64)

theorem zext64_lo32_step64 (s w : Word64) : zext64 (lo32 (step64 s w)) = step64 s w := zext64_lo32 (step64_lt s w)

theorem zext64_hi32 (w : Word64) : zext64 (hi32 w) = w >>> 32 := by
  refine BitVec.eq_of_toNat_eq ?_
  rw [zext64_toNat, hi32, BitVec.extractLsb'_toNat, BitVec.toNat_ushiftRight, Nat.mod_eq_of_lt]
  have := w.isLt
  omega

/-- `step64` in two halves of 32 steps: the low half of the data enters first. -/
theorem lo32_step64_halves (s w : Word64) :
    lo32 (step64 s w) = lfsr (lfsr (lo32 s ^^^ lo32 w) 32 ^^^ hi32 w) 32 := by
  have hfirst : wordShifts (zext64 (lo32 s) ^^^ w) 32 = zext64 (lfsr (lo32 s ^^^ lo32 w) 32 ^^^ hi32 w) := by
    rw [wordShifts_absorb _ _ le_rfl, BitVec.setWidth_eq, lo32_eq_extractLsb' w, zext64_xor, zext64_hi32]
  rw [step64, wordShifts_add _ 32 32, hfirst, wordShifts_zext64, lo32_zext64]

theorem chain64_cons (s w : Word64) (ws : List Word64) : chain64 s (w :: ws) = chain64 (step64 s w) ws := rfl

theorem chain64_singleton (s w : Word64) : chain64 s [w] = step64 s w := zext64_lo32_step64 s w

theorem chain64_append (s : Word64) (l1 l2 : List Word64) :
    chain64 s (l1 ++ l2) = chain64 (chain64 s l1) l2 := by
  induction l1 generalizing s with
  | cons w l1 ih => exact ih (step64 s w)
  | nil =>
    cases l2 with
    | nil => simp [chain64]
    | cons w l2 => rw [List.nil_append, chain64_cons, chain64_cons, chain64, step64_lo32]

theorem zext64_lo32_chain64 (s : Word64) (ws : List Word64) : zext64 (lo32 (chain64 s ws)) = chain64 s ws := by
  induction ws generalizing s with
  | nil => rw [chain64, lo32_zext64]
  | cons w ws ih => exact ih (step64 s w)

theorem chain64_xor (s1 s2 : Word64) (l1 l2 : List Word64) (h : l1.length = l2.length) :
    chain64 (s1 ^^^ s2) (List.zipWith (· ^^^ ·) l1 l2) = chain64 s1 l1 ^^^ chain64 s2 l2 := by
  induction l1 generalizing s1 s2 l2 with
  | nil =>
    obtain rfl := List.length_eq_zero_iff.1 h.symm
    rw [List.zipWith_nil_left, chain64, chain64, chain64, lo32_xor, zext64_xor]
  | cons w1 l1 ih =>
    cases l2 with
    | nil => cases h
    | cons w2 l2 =>
      rw [List.zipWith_cons_cons, chain64_cons, step64_xor, chain64_cons, chain64_cons]
      exact ih _ _ l2 (Nat.succ.inj h)

/-- A chain over zero words shifts the state, 64 single-bit steps a word (R93). -/
theorem lo32_chain64_zeros (s : Word64) (k : Nat) :
    lo32 (chain64 s (List.replicate k 0)) = lfsr (lo32 s) (64 * k) := by
  induction k generalizing s with
  | zero => exact lo32_zext64 _
  | succ k ih =>
    rw [List.replicate_succ, chain64_cons, ih, step64_zero_word, lo32_zext64, ← lfsr_add, Nat.mul_succ, Nat.add_comm]

/-- Settles O49: `step8` and `step64` iterate single-bit steps, each linear, and `chain64` iterates `step64`. -/
theorem stepsAreLinear : Obligations.StepsAreLinear := by
  refine ⟨fun r s k => ⟨lfsr_xor r s k, lfsr_of_zero k⟩, fun s1 s2 b1 b2 => ?_, step64_xor, chain64_xor,
    lo32_chain64_zeros⟩
  rw [step8, step8, step8, ← lfsr_xor, BitVec.setWidth_xor]
  ac_rfl

end Sys2Proof.Machine
end

section
/-! PROOFS. The oracle byte by byte (O50), and `step64` and `chain64` as the oracle over the bytes of their words
(O51). -/

open Sys2Proof Sys2Proof.Machine

namespace Sys2Proof.Machine

/-- A step of the shift register takes data in at bit 0 and moves the rest down (R90). -/
theorem lfsr1_xor_eq_serialBit (s x : Word32) : lfsr1 (s ^^^ x) = serialBit s (x.getLsbD 0) ^^^ (x >>> 1) := by
  rw [lfsr1, serialBit, BitVec.getLsbD_xor, BitVec.ushiftRight_xor_distrib]
  split <;> ac_rfl

/-- The oracle's `left` remaining bits of a byte are as many single-bit steps on the state xored with them. -/
theorem serialBits_eq_lfsr (s : Word32) (b : Byte) {left : Nat} (hleft : left ≤ 8) :
    serialBits s b left = lfsr (s ^^^ (b >>> (8 - left)).setWidth 32) left := by
  induction left generalizing s with
  | zero => simp [serialBits, BitVec.ushiftRight_eq_zero]
  | succ left ih =>
    have hbit : ((b >>> (7 - left)).setWidth 32).getLsbD 0 = b.getLsbD (7 - left) := by
      simp [show 7 - left < 32 by omega]
    have hshift : (b >>> (7 - left)).setWidth 32 >>> 1 = (b >>> (8 - left)).setWidth 32 := by
      ext i hi
      simp [show 7 - left + (1 + i) = 8 - left + i by omega]
    rw [serialBits, ih _ (by omega), Nat.add_comm left 1, lfsr_add, lfsr_succ, lfsr_zero_steps]
    rw [show 8 - (1 + left) = 7 - left by omega, lfsr1_xor_eq_serialBit, hbit, hshift]

/-- One byte of the oracle is `step8` (R89, R90). -/
theorem serialBits_eight (s : Word32) (b : Byte) : serialBits s b 8 = step8 s b := by
  rw [serialBits_eq_lfsr s b le_rfl, Nat.sub_self, BitVec.ushiftRight_zero, step8]

theorem crcSerial_append (s : Word32) (b1 b2 : List Byte) :
    crcSerial s (b1 ++ b2) = crcSerial (crcSerial s b1) b2 := by
  induction b1 generalizing s with
  | nil => rfl
  | cons b b1 ih => exact ih (serialBits s b 8)

theorem crcSerial_zeros (k : Nat) : crcSerial 0 (List.replicate k 0) = 0 := by
  induction k with
  | zero => rfl
  | succ k ih =>
    have hzero : step8 0 0 = 0 := lfsr_of_zero 8
    rw [List.replicate_succ, crcSerial_cons, serialBits_eight, hzero, ih]

/-- Settles O50: a byte by `serialBits_eight`, a string by induction on its bytes. -/
theorem oracleLaws : Obligations.OracleLaws := ⟨serialBits_eight, crcSerial_append, crcSerial_zeros⟩

/-! ## Words as bytes -/

/-- Eight shifts of `step64` are one byte step on the lowest byte of the word. -/
theorem wordShifts_byte (s : Word32) (w : Word64) :
    wordShifts (zext64 s ^^^ w) 8 = zext64 (step8 s (w.extractLsb' 0 8)) ^^^ (w >>> 8) :=
  wordShifts_absorb s w (by decide)

/-- After `8 * j` shifts the state is the oracle's over the lowest `j` bytes, and the bytes to come stand above. -/
theorem wordShifts_bytes (s : Word32) (w : Word64) (j : Nat) : wordShifts (zext64 s ^^^ w) (8 * j) =
    zext64 (crcSerial s ((List.range j).map fun i => w.extractLsb' (8 * i) 8)) ^^^ (w >>> (8 * j)) := by
  induction j with
  | zero => simp [wordShifts]
  | succ j ih =>
    have hbyte : (w >>> (8 * j)).extractLsb' 0 8 = w.extractLsb' (8 * j) 8 := by ext; simp
    rw [Nat.mul_succ, wordShifts_add, ih, wordShifts_byte, hbyte, ← BitVec.shiftRight_add, List.range_succ,
      List.map_append, List.map_singleton, crcSerial_append, crcSerial_cons, crcSerial_nil, serialBits_eight]

theorem lo32_step64_eq_crcSerial (s w : Word64) : lo32 (step64 s w) = crcSerial (lo32 s) (bytesOfWord w) := by
  have hout : w >>> (8 * 8) = 0#64 := BitVec.ushiftRight_eq_zero (by decide)
  rw [step64, wordShifts_bytes (lo32 s) w 8, hout, BitVec.xor_zero, lo32_zext64, bytesOfWord]

theorem lo32_chain64_eq_crcSerial (s : Word64) (ws : List Word64) :
    lo32 (chain64 s ws) = crcSerial (lo32 s) (ws.flatMap bytesOfWord) := by
  induction ws generalizing s with
  | nil => exact lo32_zext64 _
  | cons w ws ih =>
    rw [chain64_cons, ih, lo32_step64_eq_crcSerial, List.flatMap_cons, crcSerial_append]

/-- Settles O51: eight shifts take in one byte (`wordShifts_byte`). -/
theorem wordStepIsEightByteSteps : Obligations.WordStepIsEightByteSteps := by
  refine ⟨fun s w => ⟨step64_lt s w, (step64_lo32 s w).symm, ?_, lo32_step64_eq_crcSerial s w⟩,
    lo32_chain64_eq_crcSerial⟩
  rw [step64, step64, BitVec.xor_comm w]
  simp [lo32, zext64]

end Sys2Proof.Machine
end

section
/-! PROOFS. The carryless product bit by bit (O52), and its laws (O53). -/

open Sys2Proof Sys2Proof.Machine

namespace Sys2Proof.Machine

theorem clmulBelow_succ (a b : Word64) (i : Nat) : clmulBelow a b (i + 1) =
    clmulBelow a b i ^^^ (if b.getLsbD i then a.setWidth 128 <<< i else 0) := rfl

/-- Row `j` of the multiplier is consumed in its low 64 bits. -/
theorem clmulRow_low (u : Word32) (j : Nat) :
    ((zext64 u).setWidth 128 <<< j).setWidth 64 = zext64 u <<< j := by
  ext i hi
  simp [zext64]

theorem clmulBelow_xor (a b c : Word64) (i : Nat) :
    clmulBelow (a ^^^ c) b i = clmulBelow a b i ^^^ clmulBelow c b i := by
  induction i with
  | zero => exact BitVec.xor_zero.symm
  | succ i ih =>
    rw [clmulBelow_succ, clmulBelow_succ, clmulBelow_succ, ih]
    split
    · rw [BitVec.setWidth_xor, BitVec.shiftLeft_xor_distrib]
      ac_rfl
    · simp

/-- Addition of bits is xor, so the xor over a list is a sum. -/
theorem foldr_xor_eq_sum (f : Nat → Bool) (n : Nat) :
    ((List.range n).map f).foldr Bool.xor false = ∑ i ∈ Finset.range n, f i := rfl

/-- Row `i` of the multiplier: it reaches bit `m` only from bit `m - i` of the first operand. -/
theorem clmulRow_getLsbD (a b : Word64) (m : Nat) {i : Nat} (hi : i < 64) :
    (if b.getLsbD i then a.setWidth 128 <<< i else 0).getLsbD m =
      if i < m + 1 then a.getLsbD (m - i) && b.getLsbD i else 0 := by
  cases b.getLsbD i with
  | false => simp [Bool.zero_eq_false]
  | true =>
    by_cases ha : a.getLsbD (m - i) = true
    · have := BitVec.lt_of_getLsbD ha
      rw [Bool.eq_iff_iff]
      simp [ha, Bool.zero_eq_false]
      omega
    · simp [ha, Bool.zero_eq_false]

/-- Bit `m` of a partial product: the pairs of bits `j` of the second operand and `m - j` of the first. -/
theorem clmulBelow_getLsbD (a b : Word64) (m : Nat) {i : Nat} (hi : i ≤ 64) : (clmulBelow a b i).getLsbD m =
    ∑ j ∈ Finset.range (m + 1), if j < i then a.getLsbD (m - j) && b.getLsbD j else 0 := by
  induction i with
  | zero =>
    have hnone : ∑ j ∈ Finset.range (m + 1), (if j < 0 then a.getLsbD (m - j) && b.getLsbD j else 0) = 0 :=
      Finset.sum_eq_zero fun j _ => if_neg (Nat.not_lt_zero j)
    exact BitVec.getLsbD_zero.trans hnone.symm
  | succ i ih =>
    have hpick := Finset.sum_ite_eq' (Finset.range (m + 1)) i fun j => a.getLsbD (m - j) && b.getLsbD j
    rw [clmulBelow_succ, BitVec.getLsbD_xor, ih (by omega), clmulRow_getLsbD a b m hi, ← Bool.add_eq_xor]
    simp only [Finset.mem_range] at hpick
    rw [← hpick, ← Finset.sum_add_distrib]
    refine Finset.sum_congr rfl fun j _ => ?_
    obtain hlt | rfl | hgt := Nat.lt_trichotomy j i
    · simp [hlt, Nat.lt_succ_of_lt hlt, hlt.ne]
    · simp
    · simp [hgt.ne', hgt.not_gt, show ¬ j < i + 1 by omega]

/-- Bit `m` of the product, both operands ranging freely: bits past 63 are zero. -/
theorem clmul_getLsbD (a b : Word64) (m : Nat) :
    (clmul a b).getLsbD m = ∑ i ∈ Finset.range (m + 1), (a.getLsbD i && b.getLsbD (m - i)) := by
  rw [clmul, clmulBelow_getLsbD a b m le_rfl, ← Finset.sum_flip]
  refine Finset.sum_congr rfl fun j hj => ?_
  rw [Nat.sub_sub_self (Finset.mem_range_succ_iff.1 hj)]
  by_cases hlt : m - j < 64
  · rw [if_pos hlt]
  · rw [if_neg hlt, BitVec.getLsbD_of_ge b (m - j) (by omega), Bool.and_false, Bool.zero_eq_false]

theorem clmul_comm (a b : Word64) : clmul a b = clmul b a := by
  refine BitVec.eq_of_getLsbD_eq fun m _ => ?_
  rw [clmul_getLsbD, clmul_getLsbD, ← Finset.sum_flip]
  refine Finset.sum_congr rfl fun j hj => ?_
  rw [Nat.sub_sub_self (Finset.mem_range_succ_iff.1 hj), Bool.and_comm]

/-- Settles O52: the sum of `clmul_getLsbD`, written as the statement's fold. -/
theorem clmulIsTheXorConvolution : Obligations.ClmulIsTheXorConvolution :=
  fun a b m => (clmul_getLsbD a b m).trans (foldr_xor_eq_sum _ _).symm

/-- Settles O53: the convolution is symmetric, and the rows of the multiplier are linear and bounded. -/
theorem clmulLaws : Obligations.ClmulLaws :=
  ⟨clmul_comm, fun a b c => clmulBelow_xor a b c 64, fun _ _ _ _ _ _ ha hb => clmulBelow_lt ha hb 64⟩

end Sys2Proof.Machine
end

section
/-! PROOFS. The datapath in the polynomials of R17 (O56): single-bit steps multiply by `x` modulo `P`, so every function
built of them is a product in the quotient by `P`, where the table entries act as shifts (O54). -/

open Sys2Proof Sys2Proof.Machine
open scoped Polynomial
open Polynomial (X)

namespace Sys2Proof.Poly

/-! ## The polynomials of R17 -/

/-- In characteristic 2 a bit that is the xor of two contributes the sum of their terms. -/
theorem ite_xor (p q : Bool) (f : (ZMod 2)[X]) :
    (if (p ^^ q) = true then f else 0) = (if p = true then f else 0) + if q = true then f else 0 := by
  cases p <;> cases q <;> simp [CharTwo.add_self_eq_zero]

theorem poly32_xor (u v : Word32) : poly32 (u ^^^ v) = poly32 u + poly32 v := by
  simp only [poly32, BitVec.getLsbD_xor, ite_xor, Finset.sum_add_distrib]

theorem poly64_xor (u v : Word64) : poly64 (u ^^^ v) = poly64 u + poly64 v := by
  simp only [poly64, BitVec.getLsbD_xor, ite_xor, Finset.sum_add_distrib]

theorem poly32_zero : poly32 0 = 0 := by simp [poly32]

theorem poly32_one : poly32 1 = X ^ 31 := by simp [poly32]

theorem poly64_zero : poly64 0 = 0 := by simp [poly64]

theorem poly32_degree_lt (v : Word32) : (poly32 v).degree < 32 := by
  refine Polynomial.mem_degreeLT.1 (Submodule.sum_mem _ fun i hi => ?_)
  have := Finset.mem_range.1 hi
  rw [Polynomial.mem_degreeLT]
  split
  · rw [Polynomial.degree_X_pow]
    exact_mod_cast (show 31 - i < 32 by omega)
  · rw [Polynomial.degree_zero]
    exact WithBot.bot_lt_coe 32

theorem poly32_coeff (v : Word32) {i : Nat} (hi : i < 32) :
    (poly32 v).coeff (31 - i) = if v.getLsbD i then 1 else 0 := by
  rw [poly32, Polynomial.finsetSum_coeff, Finset.sum_eq_single i]
  · split <;> simp
  · intro j hj hne
    have := Finset.mem_range.1 hj
    split
    · rw [Polynomial.coeff_X_pow, if_neg (by omega)]
    · exact Polynomial.coeff_zero _
  · intro h
    exact absurd (Finset.mem_range.2 hi) h

theorem poly32_injective : Function.Injective poly32 := by
  intro u v h
  refine BitVec.eq_of_getLsbD_eq fun i hi => ?_
  have hcoeff := congrArg (·.coeff (31 - i)) h
  simp only [poly32_coeff _ hi] at hcoeff
  revert hcoeff
  cases u.getLsbD i <;> cases v.getLsbD i <;> simp

/-- The two halves of a word: its low half holds the higher powers. -/
theorem poly64_halves (w : Word64) : poly64 w = X ^ 32 * poly32 (lo32 w) + poly32 (hi32 w) := by
  have hlow (i : Nat) (hi : i ∈ Finset.range 32) : (if w.getLsbD i then X ^ (63 - i) else (0 : (ZMod 2)[X])) =
      X ^ 32 * if (lo32 w).getLsbD i then X ^ (31 - i) else 0 := by
    have hi := Finset.mem_range.1 hi
    rw [mul_ite, mul_zero, ← pow_add, show 32 + (31 - i) = 63 - i by omega]
    simp [lo32, hi]
  have hhigh (i : Nat) (hi : i ∈ Finset.range 32) :
      (if w.getLsbD (32 + i) then X ^ (63 - (32 + i)) else (0 : (ZMod 2)[X])) =
        if (hi32 w).getLsbD i then X ^ (31 - i) else 0 := by
    have hi := Finset.mem_range.1 hi
    rw [show 63 - (32 + i) = 31 - i by omega]
    simp [hi32, hi]
  rw [poly64, Finset.sum_range_add _ 32 32, Finset.sum_congr rfl hlow, Finset.sum_congr rfl hhigh, ← Finset.mul_sum,
    poly32, poly32]

/-! ## Residues modulo the generator -/

theorem generator_monic : generator.Monic := Polynomial.monic_X_pow_add (poly32_degree_lt _)

theorem generator_degree : generator.degree = 32 := by
  rw [generator, Polynomial.degree_add_eq_left_of_degree_lt, Polynomial.degree_X_pow]
  · rfl
  · rw [Polynomial.degree_X_pow]; exact poly32_degree_lt _

/-- The residue of a 32-bit value modulo `P`. -/
noncomputable def residue (v : Word32) : AdjoinRoot generator := AdjoinRoot.mk generator (poly32 v)

theorem mk_poly32 (v : Word32) : AdjoinRoot.mk generator (poly32 v) = residue v := rfl

/-- A value is the remainder of every polynomial with its residue. -/
theorem poly32_eq_modByMonic {v : Word32} {f : (ZMod 2)[X]} (h : residue v = AdjoinRoot.mk generator f) :
    poly32 v = f %ₘ generator := by
  have hself : poly32 v %ₘ generator = poly32 v :=
    (Polynomial.modByMonic_eq_self_iff generator_monic).2 (by rw [generator_degree]; exact poly32_degree_lt v)
  rw [← hself]
  exact Polynomial.modByMonic_eq_of_dvd_sub generator_monic (AdjoinRoot.mk_eq_mk.1 h)

theorem residue_injective : Function.Injective residue := fun u v h => by
  refine poly32_injective ?_
  rw [poly32_eq_modByMonic h, ← poly32_eq_modByMonic (v := v) rfl]

theorem residue_xor (u v : Word32) : residue (u ^^^ v) = residue u + residue v := by
  rw [residue, poly32_xor, map_add, residue, residue]

/-- The bit shifted out of a value is the term that reaches `X ^ 32`. -/
theorem X_mul_poly32 (r : Word32) : X * poly32 r = poly32 (r >>> 1) + if r.getLsbD 0 then X ^ 32 else 0 := by
  have hrest (i : Nat) (hi : i ∈ Finset.range 31) : X * (if r.getLsbD (i + 1) then X ^ (31 - (i + 1)) else 0) =
      if (r >>> 1).getLsbD i then X ^ (31 - i) else (0 : (ZMod 2)[X]) := by
    have hi := Finset.mem_range.1 hi
    rw [mul_ite, mul_zero, ← pow_succ', show 31 - (i + 1) + 1 = 31 - i by omega]
    simp [Nat.add_comm 1 i]
  rw [poly32, Finset.sum_range_succ' _ 31, mul_add, Finset.mul_sum, Finset.sum_congr rfl hrest, poly32,
    Finset.sum_range_succ _ 31]
  simp [← pow_succ']

theorem poly32_lfsr1 (r : Word32) : poly32 (lfsr1 r) + (if r.getLsbD 0 then generator else 0) = X * poly32 r := by
  rw [X_mul_poly32, lfsr1]
  split
  · rw [poly32_xor, generator, add_comm (X ^ 32), add_assoc, CharTwo.add_cancel_left]
  · rfl

/-- A single-bit step multiplies by `x` modulo `P`. -/
theorem residue_lfsr1 (r : Word32) : residue (lfsr1 r) = AdjoinRoot.root generator * residue r := by
  rw [residue, residue, ← AdjoinRoot.mk_X, ← map_mul, ← poly32_lfsr1, map_add, apply_ite (AdjoinRoot.mk generator),
    AdjoinRoot.mk_self, map_zero, ite_self, add_zero]

theorem residue_lfsr (r : Word32) (k : Nat) : residue (lfsr r k) = AdjoinRoot.root generator ^ k * residue r := by
  induction k with
  | zero => rw [lfsr_zero_steps, pow_zero, one_mul]
  | succ k ih => rw [lfsr_succ, residue_lfsr1, ih, pow_succ', mul_assoc]

/-- `step64` multiplies its state by `x ^ 64` and adds `x ^ 32` times its word, modulo `P`. -/
theorem residue_step64 (s w : Word64) : residue (lo32 (step64 s w)) =
    AdjoinRoot.mk generator (poly32 (lo32 s) * X ^ 64 + poly64 w * X ^ 32) := by
  rw [lo32_step64_halves, residue_lfsr, residue_xor, residue_lfsr, residue_xor, poly64_halves]
  simp only [residue, map_add, map_mul, map_pow, AdjoinRoot.mk_X]
  ring

/-- A table entry is `x ^ (64 i + 31)` modulo `P` (R99). -/
theorem residue_tbl (i : Nat) : residue (tbl i) = AdjoinRoot.root generator ^ (64 * i + 31) := by
  induction i with
  | zero => rw [tbl, residue, poly32_one, map_pow, AdjoinRoot.mk_X]
  | succ i ih => rw [tbl_succ, residue_lfsr, ih, ← pow_add]; congr 1; omega

/-! ## The product -/

theorem poly64_shiftLeft (u : Word32) {j : Nat} (hj : j ≤ 32) :
    poly64 (zext64 u <<< j) = X ^ (32 - j) * poly32 u := by
  have hbelow : ∑ i ∈ Finset.range j, (if (zext64 u <<< j).getLsbD i then X ^ (63 - i) else (0 : (ZMod 2)[X])) = 0 :=
    Finset.sum_eq_zero fun i hi => by simp [Finset.mem_range.1 hi]
  have habove : ∑ i ∈ Finset.range (32 - j), (if (zext64 u <<< j).getLsbD (j + (32 + i)) then
      X ^ (63 - (j + (32 + i))) else (0 : (ZMod 2)[X])) = 0 :=
    Finset.sum_eq_zero fun i _ => by simp [zext64]
  have hrow (i : Nat) (hi : i ∈ Finset.range 32) :
      (if (zext64 u <<< j).getLsbD (j + i) then X ^ (63 - (j + i)) else (0 : (ZMod 2)[X])) =
        X ^ (32 - j) * if u.getLsbD i then X ^ (31 - i) else 0 := by
    have hi := Finset.mem_range.1 hi
    rw [mul_ite, mul_zero, ← pow_add, show 32 - j + (31 - i) = 63 - (j + i) by omega]
    simp [zext64, show j + i < 64 by omega]
  rw [poly64, show Finset.range 64 = Finset.range (j + (32 + (32 - j))) by congr 1; omega, Finset.sum_range_add,
    Finset.sum_range_add, hbelow, habove, zero_add, add_zero, Finset.sum_congr rfl hrow, ← Finset.mul_sum, poly32]

/-- Row `j` of the multiplier, read as a reflected value (R97): bit `j` of a 32-bit operand is its `x ^ (31 - j)`
term. -/
theorem poly64_clmulRow (u v : Word32) (j : Nat) :
    poly64 ((if (zext64 v).getLsbD j then (zext64 u).setWidth 128 <<< j else 0).setWidth 64) =
      X * poly32 u * if v.getLsbD j then X ^ (31 - j) else 0 := by
  have hbit : (zext64 v).getLsbD j = v.getLsbD j := by
    simpa [zext64] using fun h => (BitVec.lt_of_getLsbD h).trans (by decide)
  rw [hbit]
  split
  case isTrue hset =>
    have hj : j < 32 := BitVec.lt_of_getLsbD hset
    rw [clmulRow_low, poly64_shiftLeft u hj.le, show 32 - j = 31 - j + 1 by omega]
    ring
  case isFalse => simpa using poly64_zero

/-- The partial products of two 32-bit values, read as reflected values. -/
theorem poly64_clmulBelow (u v : Word32) (i : Nat) : poly64 ((clmulBelow (zext64 u) (zext64 v) i).setWidth 64) =
    X * poly32 u * ∑ j ∈ Finset.range i, if v.getLsbD j then X ^ (31 - j) else 0 := by
  induction i with
  | zero => simpa [clmulBelow] using poly64_zero
  | succ i ih =>
    rw [clmulBelow_succ, BitVec.setWidth_xor, poly64_xor, ih, poly64_clmulRow, Finset.sum_range_succ, mul_add]

theorem poly64_clmulLow (u v : Word32) : poly64 (clmulLow (zext64 u) (zext64 v)) = X * poly32 u * poly32 v := by
  have hhigh : ∑ j ∈ Finset.range 32, (if v.getLsbD (32 + j) then X ^ (31 - (32 + j)) else (0 : (ZMod 2)[X])) = 0 :=
    Finset.sum_eq_zero fun j _ => by rw [BitVec.getLsbD_of_ge v _ (by omega), if_neg Bool.false_ne_true]
  rw [clmulLow, clmul, poly64_clmulBelow, Finset.sum_range_add _ 32 32, hhigh, add_zero, ← poly32]

/-- Settles O56: a 32-bit value is the remainder of whatever has its residue, and the residues are those of
`residue_lfsr`, `residue_step64` and `residue_tbl`. -/
theorem polynomialMeaning : Obligations.PolynomialMeaning := by
  refine ⟨fun r k => ?_, fun s w => ?_, poly64_clmulLow, fun i => ?_⟩
  · exact poly32_eq_modByMonic (by rw [residue_lfsr, map_mul, map_pow, AdjoinRoot.mk_X, residue])
  · exact poly32_eq_modByMonic (residue_step64 s w)
  · exact poly32_eq_modByMonic (by rw [residue_tbl, map_pow, AdjoinRoot.mk_X])

/-- Settles O54, as R100 argues: the product has a factor `x`, entry `i` the factor `x ^ (64 i + 31)`, and `step64` the
factor `x ^ 32`. -/
theorem tableEntryShifts : Obligations.TableEntryShifts := fun a i => by
  refine residue_injective ?_
  have hstate : poly32 (lo32 0) = 0 := poly32_zero
  rw [residue_step64, residue_lfsr, poly64_clmulLow, hstate]
  simp only [map_add, map_mul, map_pow, map_zero, AdjoinRoot.mk_X, mk_poly32, residue_tbl]
  ring

end Sys2Proof.Poly
end

section
/-! PROOFS. One merging step finishes a fold (O55). -/

namespace Sys2Proof.Machine

/-- A chain is the start state shifted past the words, and the chain over them from zero (R93). -/
theorem chain64_eq_shift_xor (s : Word64) (ws : List Word64) :
    chain64 s ws = zext64 (lfsr (lo32 s) (64 * ws.length)) ^^^ chain64 0 ws := by
  have hzeros : List.zipWith (· ^^^ ·) (List.replicate ws.length 0) ws = ws := by
    induction ws with
    | nil => rfl
    | cons w ws ih =>
      rw [List.length_cons, List.replicate_succ, List.zipWith_cons_cons, ih]
      exact congrArg (· :: ws) BitVec.zero_xor
  calc chain64 s ws
      = chain64 (s ^^^ 0#64) (List.zipWith (· ^^^ ·) (List.replicate ws.length 0) ws) := by
        rw [hzeros, BitVec.xor_zero]
    _ = chain64 s (List.replicate ws.length 0) ^^^ chain64 0#64 ws := chain64_xor _ _ _ _ (by simp)
    _ = _ := by rw [← lo32_chain64_zeros, zext64_lo32_chain64]; rfl

/-- Settles O55, as R102 argues: the merge is linear in the product and lane B's last word; the first part is lane A
shifted past lane B, the second lane B's own chain. -/
theorem mergeFoldsTheLanes : Obligations.MergeFoldsTheLanes := by
  intro c as bs last hlen
  have hdist : 64 * (as.length - 1 + 1) = 64 * (bs ++ [last]).length := by simp [hlen]
  have hlaneA : step64 0 (clmulLow (zext64 (tbl (as.length - 1))) (chain64 (zext64 c) as)) =
      zext64 (lfsr (lo32 (chain64 (zext64 c) as)) (64 * (bs ++ [last]).length)) := by
    rw [← zext64_lo32_step64, ← hdist, ← Poly.tableEntryShifts, zext64_lo32_chain64]
  have hlaneB : step64 (chain64 0 bs) last = chain64 0 (bs ++ [last]) := by
    rw [chain64_append, chain64_singleton]
  rw [step64_xor_word, hlaneA, hlaneB, ← chain64_eq_shift_xor, ← chain64_append]

end Sys2Proof.Machine
end

section
/-! PROOFS. The serial operations of 41_serial_ops.md: NOP (O12), INIT (O13), S8 (O14), S64 (O15), S8I (O16), FIN (O17).
Each clause is the case of `Laws/Exec.lean` that its conditions leave. -/

open Sys2Proof Sys2Proof.Machine

namespace Sys2Proof.Machine

/-- A word put together from an opcode and an immediate of format I decodes to that row's operation (R75, R76). -/
theorem decode_wordI {op imm8 : BitVec 8} {i : Instr} (h : formatI op imm8 = some i) :
    decode (op.setWidth 32 ||| imm8.setWidth 32 <<< 8) = .ok i := by
  obtain ⟨hop, himm, hzero⟩ := Laws.EncodeFields.fields_of_word imm8 op
  rw [BitVec.or_comm, decode_of_formatI (by rw [hop, himm, h]), if_pos hzero]

/-- Settles O12: NOP answers the state it is given (R105). -/
theorem nopChangesNothing : Obligations.NopChangesNothing := ⟨(decode_eq_ok_iff_maskZ rfl).2 rfl, fun _ => rfl⟩

/-- Settles O13: the range check decides between the fault entry and the writes, and an empty buffer passes it. -/
theorem initBeginsAComputation : Obligations.InitBeginsAComputation := by
  refine ⟨(decode_eq_ok_iff_maskZ rfl).2 rfl, fun s => ?_⟩
  have hempty : s.len = 0 → s.buf.toNat + s.len.toNat < 2 ^ 64 := fun h => by
    rw [h]
    exact s.buf.isLt
  obtain ⟨t, ht⟩ := exec_next .init s
  have hrange := outOfRange_eq_false (s := s)
  rw [ht]
  obtain ⟨hr, rfl⟩ | ⟨hr, rfl⟩ := execInit_cases ht <;> rw [hr] at hrange
  · exact ⟨fun h => (nomatch hrange.2 h), fun _ => rfl, hempty⟩
  · exact ⟨fun _ => rfl, fun h => absurd (hrange.1 rfl) (Nat.not_lt.2 h), hempty⟩

/-- Settles O14: the outcomes of `execS8_cases` exclude each other, and the extent of the invariant keeps PTR from
wrapping. -/
theorem s8ConsumesOneByte : Obligations.S8ConsumesOneByte := by
  refine ⟨(decode_eq_ok_iff_maskZ rfl).2 rfl, fun s => ?_⟩
  have hptr : s.Inv → s.rem ≠ 0 → (s.ptr + 1).toNat = s.ptr.toNat + 1 := fun hs hr =>
    (consume_toNat (d := 1) (one_le_toNat hr) hs.extent).1
  obtain ⟨t, ht⟩ := exec_next .s8 s
  rw [ht, ← lo32_eq_extractLsb']
  -- PTR's clause holds in every case; the other four are the outcomes of the operation.
  simp only [← and_assoc]
  refine ⟨?_, hptr⟩
  obtain ⟨(hn : s.n ≠ 0#8), rfl⟩ | ⟨hn, hr, rfl⟩ | ⟨hn, (hr : s.rem ≠ 0#32), hb, rfl⟩ |
    ⟨b, hn, (hr : s.rem ≠ 0#32), hb, rfl⟩ := execS8_cases ht
  case inl => simp [hn]
  case inr.inl => simp [hn, hr]
  case inr.inr.inl => simp [hn, hr, hb]
  case inr.inr.inr => simp [hn, hr, hb, zext64]

/-- Settles O15: the outcomes of `execS64_cases` exclude each other. -/
theorem s64ConsumesOneWord : Obligations.S64ConsumesOneWord := by
  refine ⟨(decode_eq_ok_iff_maskZ rfl).2 rfl, fun s => ?_⟩
  obtain ⟨t, ht⟩ := exec_next .s64 s
  rw [ht]
  simp only [ne_eq, ← aligned8_iff]
  obtain ⟨(hn : s.n ≠ 0#8), rfl⟩ | ⟨hn, hr, rfl⟩ | ⟨hn, hr, ha, rfl⟩ | ⟨hn, hr, ha, hw, rfl⟩ |
    ⟨w, hn, hr, ha, hw, rfl⟩ := execS64_cases ht
  case inl => simp [hn]
  case inr.inl => simp [hn, hr, Nat.not_le.2 hr]
  case inr.inr.inl => simp [hn, hr, ha]
  case inr.inr.inr.inl => simp [hn, hr, ha, hw]
  case inr.inr.inr.inr => simp [hn, hr, ha, hw]

/-- Settles O16: S8I has no check, and its word carries the byte as the immediate. -/
theorem s8IStepsOnTheImmediateByte : Obligations.S8IStepsOnTheImmediateByte := fun byte =>
  ⟨decode_wordI (op := 0x04#8) rfl, fun s => by rw [← lo32_eq_extractLsb']; rfl⟩

/-- Settles O17: FIN has no check, and truncation keeps the low half. -/
theorem finReturnsTheAccumulator : Obligations.FinReturnsTheAccumulator :=
  ⟨(decode_eq_ok_iff_maskZ rfl).2 rfl, fun s => by rw [← lo32_eq_extractLsb']; rfl⟩

end Sys2Proof.Machine
end

section
/-! PROOFS. The converse of `exec_cases`, and from it the order of the lane steps (O46): SA, SB and LUT commute, since
none of them reads or writes a register another one writes (R119). -/

open Sys2Proof Sys2Proof.Machine

namespace Sys2Proof.Machine

/-! ## Checks that decide an operation -/

/-- An operation whose checks pass does its writes (R121): the converse of `exec_cases`. -/
theorem Completes.exec_eq {s t : State} {i : Instr} (hc : Completes s i t) : exec i s = .next t := by
  cases hc
  case nop | s8i | fin | clm | crc | srst => rfl
  case init range => rw [exec, execInit, range]; rfl
  case s8 b closed more read =>
    rw [exec, execS8, if_neg (not_not.2 closed), if_neg more, memRead1, read]
    rfl
  case s64 w closed room al read =>
    rw [exec, execS64, if_neg (not_not.2 closed), if_neg (Nat.not_lt.2 room), if_pos al, read]
    rfl
  case fset closed room al =>
    rw [exec, execFset, if_neg (not_not.2 closed), if_neg (Nat.not_lt.2 room), if_pos al]
    rfl
  case sa w turn read =>
    rw [exec, execSa, if_neg (by simpa using turn), read]
    rfl
  case sb w turn read =>
    rw [exec, execSb, if_neg (by simpa using turn), read]
    rfl
  case lut opened inRom =>
    rw [exec, execLut, if_neg opened, romRead, if_pos inRom]
    rfl
  case luti index inRom =>
    rw [exec, execLuti, romRead, if_pos inRom]
    rfl
  case mrg w turn read =>
    rw [exec, execMrg, if_neg (by simpa using turn), read]
    rfl
  case adv turn =>
    rw [exec, execAdv, if_neg (by simpa using turn)]
    rfl

/-! ## Lists of lane steps -/

/-- The operations R119 leaves free in their order. -/
def LaneStep (i : Instr) : Prop := i = .sa ∨ i = .sb ∨ i = .lut

/-- Two lane steps commute: the second one's checks, read and writes are the same before the first (R119). -/
theorem Completes.laneStep_comm {s u t : State} {i j : Instr} (hi : LaneStep i) (hj : LaneStep j)
    (hsu : Completes s i u) (hut : Completes u j t) : ∃ v, Completes s j v ∧ Completes v i t := by
  by_cases hij : i = j
  · subst hij
    exact ⟨u, hsu, hut⟩
  obtain rfl | rfl | rfl := hi
  · cases hsu with | sa w turn read =>
    obtain rfl | rfl | rfl := hj
    · exact absurd rfl hij
    · cases hut with | sb w' turn' read' => exact ⟨_, .sb w' turn' read', .sa w turn read⟩
    · cases hut with | lut opened inRom => exact ⟨_, .lut opened inRom, .sa w turn read⟩
  · cases hsu with | sb w turn read =>
    obtain rfl | rfl | rfl := hj
    · cases hut with | sa w' turn' read' => exact ⟨_, .sa w' turn' read', .sb w turn read⟩
    · exact absurd rfl hij
    · cases hut with | lut opened inRom => exact ⟨_, .lut opened inRom, .sb w turn read⟩
  · cases hsu with | lut opened inRom =>
    obtain rfl | rfl | rfl := hj
    · cases hut with | sa w turn read => exact ⟨_, .sa w turn read, .lut opened inRom⟩
    · cases hut with | sb w turn read => exact ⟨_, .sb w turn read, .lut opened inRom⟩
    · exact absurd rfl hij

/-- The fault entry sets FAULT (R141), so an operation that leaves it clear has completed. -/
theorem exec_eq_next_iff {s t : State} {i : Instr} (ht : t.fault = false) :
    exec i s = .next t ↔ Completes s i t := by
  refine ⟨fun h => ?_, Completes.exec_eq⟩
  obtain ⟨c, rfl⟩ | hc := exec_cases h
  · cases ht
  · exact hc

theorem execAll_cons {i : Instr} {l : List Instr} {s t : State} :
    execAll (i :: l) s = .next t ↔ ∃ u, exec i s = .next u ∧ execAll l u = .next t := by
  obtain ⟨u, hu⟩ := exec_next i s
  simp [execAll, hu]

theorem Completes.laneStep_fault {s t : State} {i : Instr} (hi : LaneStep i) (hc : Completes s i t) :
    t.fault = s.fault := by
  obtain rfl | rfl | rfl := hi <;> cases hc <;> rfl

/-- Lane steps do not clear FAULT, so where it is clear at the end it was clear at the start. -/
theorem execAll_laneSteps_fault {l : List Instr} (hl : ∀ i ∈ l, LaneStep i) {s t : State}
    (h : execAll l s = .next t) (ht : t.fault = false) : s.fault = false := by
  induction l generalizing s with
  | nil => cases h; exact ht
  | cons i l ih =>
    obtain ⟨hi, hl⟩ := List.forall_mem_cons.1 hl
    obtain ⟨u, hu, h⟩ := execAll_cons.1 h
    have hc := (exec_eq_next_iff (ih hl h)).1 hu
    exact (hc.laneStep_fault hi).symm.trans (ih hl h)

/-- Lane steps that end without a fault: the first of them completes, and the others follow. -/
theorem execAll_laneSteps_cons {i : Instr} {l : List Instr} (hl : ∀ j ∈ l, LaneStep j) {s t : State}
    (ht : t.fault = false) : execAll (i :: l) s = .next t ↔ ∃ u, Completes s i u ∧ execAll l u = .next t := by
  rw [execAll_cons]
  exact exists_congr fun u => and_congr_left fun h => exec_eq_next_iff (execAll_laneSteps_fault hl h ht)

/-- A permutation is made of exchanges of neighbours, and neighbours commute (R137). -/
theorem execAll_laneSteps_perm {l l' : List Instr} (hp : l.Perm l') (hl : ∀ i ∈ l, LaneStep i) {s t : State}
    (h : execAll l s = .next t) (ht : t.fault = false) : execAll l' s = .next t := by
  induction hp generalizing s with
  | nil => exact h
  | cons i hp ih =>
    obtain ⟨u, hu, h⟩ := execAll_cons.1 h
    exact execAll_cons.2 ⟨u, hu, ih (List.forall_mem_cons.1 hl).2 h⟩
  | swap i j l =>
    obtain ⟨hj, hil⟩ := List.forall_mem_cons.1 hl
    obtain ⟨hi, hl⟩ := List.forall_mem_cons.1 hil
    obtain ⟨u, hsu, h⟩ := (execAll_laneSteps_cons hil ht).1 h
    obtain ⟨w, huw, h⟩ := (execAll_laneSteps_cons hl ht).1 h
    obtain ⟨v, hsv, hvw⟩ := hsu.laneStep_comm hj hi huw
    exact execAll_cons.2 ⟨v, hsv.exec_eq, execAll_cons.2 ⟨w, hvw.exec_eq, h⟩⟩
  | trans hp₁ _ ih₁ ih₂ => exact ih₂ (fun i hi => hl i (hp₁.mem_iff.2 hi)) (ih₁ hl h)

/-- Settles O46: by `execAll_laneSteps_perm`; FAULT = 0 at the start follows from FAULT = 0 at the end. -/
theorem laneOrderIsFree : Obligations.LaneOrderIsFree :=
  fun _ _ _ _ hl hp _ h ht => execAll_laneSteps_perm hp hl h ht

end Sys2Proof.Machine
end

section
/-! PROOFS. The fold operations of 42_fold_ops.md: FSET (O18), SA (O19), SB (O20), LUT (O21), LUTI (O22), CLM (O23), MRG
(O24), ADV (O25). A completed operation is `Completes.exec_eq`; a fault clause names the first check that fails. -/

open Sys2Proof Sys2Proof.Machine

namespace Sys2Proof.Machine

/-! ## Faults -/

/-- A check that fails makes the operation the fault entry of its cause (R141). -/
theorem complete_error {s : State} {r : Except FaultCode State} {c : FaultCode} (h : r = .error c) :
    complete s r = .next (s.raiseFault c) := by
  rw [h]
  rfl

/-- SA, SB and MRG in their turn take the fault of their read. -/
theorem readStep_error {s : State} {bad : Prop} [Decidable bad] {a : Addr} {write : Word64 → State} {c : FaultCode}
    (hok : ¬bad) (hm : memRead8 s.mem a = .error c) :
    complete s (if bad then .error .seq else match memRead8 s.mem a with
      | .error c => .error c
      | .ok w => .ok (write w)) = .next (s.raiseFault c) := by
  rw [if_neg hok, hm]
  rfl

/-- The ROM ends at its depth (R40). -/
theorem romRead_of_le {c : Config} {i : Nat} (h : c.romDepth ≤ i) : romRead c i = .error .rom :=
  if_neg (Nat.not_lt.2 h)

/-! ## Opening a fold and closing it -/

/-- Settles O18: the checks in their order; the count is in range since N_MAX and LEAF_BYTES are legal (R7, R8). -/
theorem fsetOpensAFold : Obligations.FsetOpensAFold := by
  refine ⟨(decode_eq_ok_iff_maskZ rfl).2 rfl, ?_⟩
  rintro s n rfl
  refine ⟨fun hn hr ha => (Completes.fset hn hr ((aligned8_iff _).2 ha)).exec_eq, fun hc hr => ?_, fun hc hr => ?_,
    fun hn => complete_error (if_pos hn),
    fun hn hr => complete_error ((if_neg (not_not.2 hn)).trans (if_pos hr)),
    fun hn hr ha => complete_error ((if_neg (not_not.2 hn)).trans
      ((if_neg (Nat.not_lt.2 hr)).trans (if_neg (mt (aligned8_iff _).1 ha))))⟩
  · have hcount := blockCount_toNat hc
    obtain ⟨hpos, -⟩ := hc
    exact ⟨by omega, by omega, by omega, hcount⟩
  · obtain ⟨-, -, -, -, hdvd, -, hleaf⟩ := hc
    omega

/-- `16*N` as ADV writes it is `16*N` as an integer: it fits both registers. -/
theorem ofNat_blockBytes (s : State) : BitVec.ofNat 64 (16 * s.n.toNat) = s.blockBytes ∧
    BitVec.ofNat 32 (16 * s.n.toNat) = s.blockBytes.setWidth 32 := by
  rw [← blockBytes_toNat]
  exact ⟨(BitVec.ofNat_toNat 64 s.blockBytes).trans (BitVec.setWidth_eq _), BitVec.ofNat_toNat 32 s.blockBytes⟩

/-- Settles O25: one check; the open block lies inside the buffer, and its length is a multiple of 8. -/
theorem advClosesTheFold : Obligations.AdvClosesTheFold := by
  refine ⟨(decode_eq_ok_iff_maskZ rfl).2 rfl, fun s => ?_⟩
  obtain ⟨hptr, hrem⟩ := ofNat_blockBytes s
  rw [hptr, hrem]
  refine ⟨fun hn hja hjb => (Completes.adv ⟨hn, hja, hjb⟩).exec_eq, fun hbad => complete_error (if_pos hbad),
    fun hs hn => ⟨hs.blockFits, ?_⟩⟩
  obtain ⟨hp, -⟩ := consume_toNat ((blockBytes_toNat s).trans_le hs.blockFits) hs.extent
  have hal := hs.foldAligned hn
  rw [hp, blockBytes_toNat]
  omega

/-! ## The lanes -/

/-- Settles O19: SA's turn is one check, and its word is aligned as PTR is. -/
theorem saStepsLaneA : Obligations.SaStepsLaneA := by
  refine ⟨(decode_eq_ok_iff_maskZ rfl).2 rfl, ?_⟩
  rintro s a (rfl : a = s.laneAAddr)
  exact ⟨fun w hn hja hw => (Completes.sa w ⟨hn, hja⟩ hw).exec_eq, fun hbad => complete_error (if_pos hbad),
    fun hn hja hw => readStep_error (not_or.2 ⟨hn, Nat.not_le.2 hja⟩) hw,
    fun hs hn => (laneAAddr_mod_eight s).trans (hs.foldAligned hn)⟩

/-- Settles O20: as SA, but lane B's last word is not SB's. -/
theorem sbStepsLaneB : Obligations.SbStepsLaneB := by
  refine ⟨(decode_eq_ok_iff_maskZ rfl).2 rfl, ?_⟩
  rintro s a (rfl : a = s.laneBAddr)
  exact ⟨fun w hn hjb hw => (Completes.sb w ⟨hn, hjb⟩ hw).exec_eq, fun hbad => complete_error (if_pos hbad),
    fun hn hjb hw => readStep_error (not_or.2 ⟨hn, Nat.not_le.2 hjb⟩) hw,
    fun hs hn => (laneBAddr_mod_eight s).trans (hs.foldAligned hn)⟩

/-! ## The constant and the product -/

/-- Settles O21: N is at most N_MAX, and the ROM has an entry for each such N. -/
theorem lutFetchesTheFoldConstant : Obligations.LutFetchesTheFoldConstant := by
  refine ⟨(decode_eq_ok_iff_maskZ rfl).2 rfl, fun s => ⟨fun hn hi => (Completes.lut hn hi).exec_eq,
    fun hn => complete_error (if_pos hn), fun hn hi => complete_error ?_, fun hs hn => ?_⟩⟩
  · rw [if_neg hn, romRead_of_le hi]
  · obtain ⟨-, -, hdepth, -⟩ := hs.cfgLegal
    have hmax := hs.nMax
    have hpos := one_le_toNat hn
    omega

/-- Settles O22: LUTI has no check but the ROM's, and its word carries the index as the immediate. -/
theorem lutiReadsAnyEntry : Obligations.LutiReadsAnyEntry := by
  refine ⟨fun imm8 => decode_wordI (op := 0x0C#8) rfl, fun s index => ⟨fun hi => (Completes.luti index hi).exec_eq,
    fun hi => complete_error ?_, fun hdepth hwf => hdepth ▸ hwf⟩⟩
  rw [romRead_of_le hi]

theorem clmulBelow_zero_right (a : Word64) (i : Nat) : clmulBelow a 0#64 i = 0 := by
  induction i with
  | zero => rfl
  | succ i ih =>
    rw [clmulBelow_succ, ih]
    simp

/-- Only the lowest bit of 1 selects a row of the multiplier. -/
theorem clmulBelow_one_right (a : Word64) (i : Nat) : clmulBelow a 1#64 (i + 1) = a.setWidth 128 := by
  induction i with
  | zero => simp [clmulBelow]
  | succ i ih =>
    rw [clmulBelow_succ, ih]
    simp

@[simp] theorem clmulLow_zero_right (a : Word64) : clmulLow a 0#64 = 0#64 := by
  rw [clmulLow, clmul, clmulBelow_zero_right]
  rfl

@[simp] theorem clmulLow_zero_left (b : Word64) : clmulLow 0#64 b = 0#64 := by
  rw [clmulLow, clmul_comm]
  exact clmulLow_zero_right b

@[simp] theorem clmulLow_one_left (b : Word64) : clmulLow 1#64 b = b := by
  rw [clmulLow, clmul_comm, clmul, clmulBelow_one_right]
  exact BitVec.setWidth_setWidth_of_le b (by decide)

/-- The product of two 32-bit values lies in the low 64 bits (R96). -/
theorem clmul_high_eq_zero {a b : Word64} (ha : a.toNat < 2 ^ 32) (hb : b.toNat < 2 ^ 32) :
    (clmul a b).extractLsb' 64 64 = 0 := by
  have hlt : (clmul a b).toNat < 2 ^ 63 := clmulBelow_lt ha hb 64
  refine BitVec.eq_of_toNat_eq ?_
  rw [BitVec.extractLsb'_toNat, Nat.shiftRight_eq_div_pow, Nat.div_eq_of_lt (by omega)]
  rfl

/-- Settles O23: CLM has no check; the high half and the corners are the multiplier's. -/
theorem clmMultipliesKByLaneA : Obligations.ClmMultipliesKByLaneA := by
  refine ⟨(decode_eq_ok_iff_maskZ rfl).2 rfl, fun s => ?_⟩
  have hclm {v : Word64} (hv : clmulLow (zext64 s.k) s.acca = v) : exec .clm s = .next { s with q := v } :=
    hv ▸ Completes.clm.exec_eq
  refine ⟨hclm (BitVec.setWidth_eq_extractLsb' (by decide)), fun hs => clmul_high_eq_zero (zext64_lt s.k) hs.accaHigh,
    fun hk => hclm ?_, ?_⟩
  · rw [hk]
    exact clmulLow_one_left s.acca
  · rintro (hk | ha) <;> refine hclm ?_
    · rw [hk]
      exact clmulLow_zero_left s.acca
    · rw [ha]
      exact clmulLow_zero_right (zext64 s.k)

/-! ## The merge -/

/-- MRG's turn comes when lane B has one word left (R117). -/
theorem lastWord_iff {n jb : BitVec 8} (hn : n ≠ 0) : jb.toNat = n.toNat - 1 ↔ jb.toNat + 1 = n.toNat := by
  have hpos := one_le_toNat hn
  omega

/-- Settles O24: MRG's turn is one check and leaves JB at N; its effect is `mergeFoldsTheLanes` (R102). -/
theorem mrgMergesTheLanes : Obligations.MrgMergesTheLanes := by
  refine ⟨(decode_eq_ok_iff_maskZ rfl).2 rfl, ?_⟩
  rintro s a (rfl : a = s.laneBAddr)
  have hmrg (w : Word64) (hn : s.n ≠ 0) (hja : s.ja = s.n) (hjb : s.jb.toNat + 1 = s.n.toNat)
      (hw : memRead8 s.mem s.laneBAddr = .ok w) :
      exec .mrg s = .next { s with acca := step64 s.accb (s.q ^^^ w), jb := s.n } := by
    have hstep : s.jb + 1 = s.n := BitVec.eq_of_toNat_eq ((toNat_add_one (Nat.lt_of_succ_le hjb.le)).trans hjb)
    rw [(Completes.mrg w ⟨hn, hja, (lastWord_iff hn).2 hjb⟩ hw).exec_eq, hstep]
  refine ⟨hmrg, fun hbad => complete_error (if_pos ?_),
    fun hn hja hjb hw => readStep_error (by simpa [hja, ← hjb] using hn) hw, ?_⟩
  · exact or_iff_not_imp_left.2 fun hn => (hbad.resolve_left hn).imp_right (mt (lastWord_iff hn).1)
  · intro c as bs w hn hja hjb hw hlenA hlenB hacca haccb hk hq
    rw [hmrg w hn hja hjb hw, haccb, hq, hk, hacca, ← hlenA, mergeFoldsTheLanes c as bs w (by omega)]

end Sys2Proof.Machine
end

section
/-! PROOFS. Command words and moves: acceptance (O6), a word that runs (O7), CRC (O26), SRST (O27), the engine without a
run (O28), a next state for every move (O40), and operations in a run and by hand (O47). -/

open Sys2Proof Sys2Proof.Machine

namespace Sys2Proof.Machine

/-! ## The tests of R120, one outcome each -/

section
variable {s : State} {w : Word32} {i : Instr}

theorem command_illegal {e : IllegalWord} (hd : decode w = .error e) : command w s = .next s.dropAccess := by
  simp only [command, hd]

theorem command_busy (hd : decode w = .ok i) (hb : s.busy = true) : command w s = .next s.dropAccess := by
  simp only [command, hd, hb, if_true]

theorem command_faulted (hd : decode w = .ok i) (hb : s.busy = false) (hf : s.fault = true) (hi : i ≠ .srst) :
    command w s = .next s.dropAccess := by
  simp only [command, hd, hb, Bool.false_eq_true, if_false, if_pos (And.intro hf hi)]

theorem command_accepted (hd : decode w = .ok i) (hb : s.busy = false) (hok : s.fault = false ∨ i = .srst) :
    command w s = exec i s := by
  have htest : ¬(s.fault = true ∧ i ≠ .srst) := by
    rintro ⟨hf, hi⟩
    exact hok.elim (fun hf' => Bool.noConfusion (hf'.symm.trans hf)) hi
  simp only [command, hd, hb, Bool.false_eq_true, if_false, if_neg htest]

/-- A scheduled write to CMD is the acceptance of its word (R52, R120). -/
theorem step_command {ms : List Move} (h : s.schedule = .hostWrite cmdOffset w :: ms) :
    step s = command w (s.withSchedule ms) := step_cons h

end

/-- Settles O6: the four outcomes of `command`. -/
theorem commandWordsAreAccepted : Obligations.CommandWordsAreAccepted := by
  intro s w ms hs
  rw [step_command hs]
  exact ⟨fun _ hd => command_illegal hd, fun _ hd hb => command_busy (s := s.withSchedule ms) hd hb,
    fun _ hd hb hf hi => command_faulted (s := s.withSchedule ms) hd hb hf hi,
    fun _ hd hb hok => command_accepted (s := s.withSchedule ms) hd hb hok⟩

/-- Settles O7: the table's numbering of a word is the word itself, and an idle block accepts it. -/
theorem stepRunsTheDecodedWord : Obligations.StepRunsTheDecodedWord := by
  intro s w i hd hb hf
  have hword : BitVec.ofNat 32 (w.toNat % 2 ^ 32) = w := by rw [Nat.mod_eq_of_lt w.isLt, BitVec.ofNat_toNat,
    BitVec.setWidth_eq]
  refine ⟨?_, ?_, exec_next i s⟩
  · rw [decodeTableWord, if_pos (Nat.mod_lt _ (Nat.two_pow_pos 32)), hword, hd]
    rfl
  · calc step (s.withFetchWord 32 w.toNat)
        = command (BitVec.ofNat 32 (w.toNat % 2 ^ 32)) s := step_command rfl
      _ = exec i s := by rw [hword, command_accepted hd hb (.inl hf)]

/-- Settles O26: the word of CRC and its three writes (R122). -/
theorem crcStartsTheSequencer : Obligations.CrcStartsTheSequencer :=
  ⟨(decode_eq_ok_iff_maskZ rfl).2 rfl, fun _ => Completes.crc.exec_eq⟩

/-- Settles O27: SRST is the reset of the block, and only BUSY keeps its word from being accepted. -/
theorem srstResetsEveryRegister : Obligations.SrstResetsEveryRegister := by
  have hd : decode 0x0000001F#32 = .ok .srst := (decode_eq_ok_iff_maskZ rfl).2 rfl
  refine ⟨hd, fun s => ⟨Completes.srst.exec_eq, fun ms hs => ?_⟩⟩
  rw [step_command hs]
  by_cases hb : s.busy = true
  · rw [if_pos hb]
    exact command_busy (s := s.withSchedule ms) hd hb
  · rw [if_neg hb]
    exact command_accepted (s := s.withSchedule ms) hd (Bool.eq_false_iff.2 hb) (.inr rfl)

/-! ## The next move -/

/-- A step that is the engine's. -/
theorem step_engine {s u : State} (h : nextMove s = (.engine, u)) : step s = engineStep u := by
  rw [step, h]
  rfl

/-- Settles O28: the engine's move tests BUSY first (R123). -/
theorem idleEngineHasNoStep : Obligations.IdleEngineHasNoStep := by
  intro s u h hb
  rw [step_engine h, engineStep, hb]
  rfl

theorem engineStep_next (s : State) : ∃ t, engineStep s = .next t := by
  unfold engineStep
  split
  case isFalse => exact ⟨s, rfl⟩
  case isTrue =>
    unfold seqStep
    split
    case h_1 op p _ =>
      obtain ⟨t, -, h⟩ := issueThen_next op (fun t => t.gotoPhase p) s
      exact ⟨_, h⟩
    case h_2 p _ => exact ⟨_, rfl⟩
    case h_3 =>
      obtain ⟨t, -, h⟩ := issueThen_next .fin State.endRun s
      exact ⟨_, h⟩
    case h_4 => exact ⟨s, rfl⟩

theorem command_next (w : Word32) (s : State) : ∃ t, command w s = .next t := by
  unfold command
  split
  case h_1 => exact ⟨_, rfl⟩
  case h_2 i _ =>
    split
    case isTrue => exact ⟨_, rfl⟩
    case isFalse =>
      split
      case isTrue => exact ⟨_, rfl⟩
      case isFalse => exact exec_next i s

theorem hostWrite_next (s : State) (off : Offset) (v : Word32) : ∃ t, hostWrite s off v = .next t := by
  unfold hostWrite
  split
  case h_1 => exact command_next v s
  all_goals exact ⟨_, rfl⟩

/-- Settles O40: each agent's move answers a state. -/
theorem everyStateHasANextOne : Obligations.EveryStateHasANextOne := by
  intro s
  rw [step]
  cases (nextMove s).1 with
  | hostWrite off v => exact hostWrite_next _ off v
  | hostRead off => exact ⟨_, rfl⟩
  | engine => exact engineStep_next _
  | memWrite a bytes => exact ⟨_, rfl⟩
  | hwReset => exact ⟨_, rfl⟩

/-! ## In a run and by hand -/

/-- No check and no write of a datapath operation concerns BUSY or PHASE (R121). -/
theorem Completes.of_flags {s t : State} {i : Instr} (hc : Completes s i t) (hcrc : i ≠ .crc) (hsrst : i ≠ .srst)
    (b : Bool) (p : Phase) : Completes { s with busy := b, phase := p } i { t with busy := b, phase := p } := by
  cases hc
  case crc => exact absurd rfl hcrc
  case srst => exact absurd rfl hsrst
  case nop => exact .nop
  case init range => exact .init range
  case s8 b closed more read => exact .s8 b closed more read
  case s64 w closed room al read => exact .s64 w closed room al read
  case s8i byte => exact .s8i byte
  case fin => exact .fin
  case fset closed room al => exact .fset closed room al
  case sa w turn read => exact .sa w turn read
  case sb w turn read => exact .sb w turn read
  case lut opened inRom => exact .lut opened inRom
  case luti index inRom => exact .luti index inRom
  case clm => exact .clm
  case mrg w turn read => exact .mrg w turn read
  case adv turn => exact .adv turn

/-- Settles O47: an operation that leaves PHASE other than P_FAULT has completed, and its checks ignore both fields. -/
theorem operationsIgnoreBusyAndPhase : Obligations.OperationsIgnoreBusyAndPhase := by
  intro i s t b p hcrc hsrst hs h ht
  obtain ⟨c, rfl⟩ | hc := exec_cases h
  · exact absurd ht.symm hs
  · obtain ⟨-, hbusy, -, -⟩ := hc.flags hcrc hsrst
    exact ⟨hbusy, (hc.of_flags hcrc hsrst b p).exec_eq⟩

end Sys2Proof.Machine
end

section
/-! PROOFS. The phases of the sequencer, one operation (O29) or a test (O30) each. -/

open Sys2Proof Sys2Proof.Machine

namespace Sys2Proof.Machine

/-- What a phase issues is its action: the converse of `seqAction_taken`. -/
theorem Issues.seqAction_eq {s : State} {op : Instr} {p : Phase} (h : Issues s op p) : seqAction s = .issue op p := by
  cases h with
  | init here | lut here | clm here | mrg here | adv here => simp only [seqAction, here]
  | align here cond => simp [seqAction, here, cond]
  | bulk here cond | laneA here cond | wtail here cond | btail here cond => simp [seqAction, here, cond]
  | laneB here notA cond => simp [seqAction, here, notA, cond]

/-- A phase left without an operation has that as its action. -/
theorem Leaves.seqAction_eq {s : State} {p : Phase} (h : Leaves s p) : seqAction s = .goto p := by
  cases h with
  | align here cond => simp only [seqAction, here, if_neg (mt (Bool.and_eq_true _ _).mp cond)]
  | bulk here cond | wtail here cond | btail here cond => simp [seqAction, here, cond]
  | lanes here notA notB => simp [seqAction, here, notA, notB]

theorem Issues.step_eq {s u : State} {op : Instr} {p : Phase} (h : Issues u op p)
    (hm : nextMove s = (.engine, u)) (hb : u.busy = true) : s.StepIssues u op p := by
  intro t ht
  rw [step_engine hm, engineStep, if_pos hb, seqStep, h.seqAction_eq]
  simp only [issueThen, ht]
  rfl

theorem Leaves.engineStep_eq {s : State} {p : Phase} (h : Leaves s p) (hb : s.busy = true) :
    engineStep s = .next (s.gotoPhase p) := by
  rw [engineStep, if_pos hb, seqStep, h.seqAction_eq]

/-- The end of a run (R134). -/
theorem engineStep_fin {s : State} (here : s.phase = .fin) (hb : s.busy = true) :
    engineStep s = .next { s with result := lo32 s.acca, done := true, phase := .idle, busy := false } := by
  have ha : seqAction s = .finish := by simp only [seqAction, here]
  simp only [engineStep, hb, if_true, seqStep, ha, issueThen, Completes.fin.exec_eq]
  rfl

/-- Settles O29: the phases that issue without a test, and P_FIN. -/
theorem sequencerFixedPhases : Obligations.SequencerFixedPhases := by
  intro s u hm hb
  refine ⟨fun h => (Issues.init h).step_eq hm hb, fun h => (Issues.lut h).step_eq hm hb,
    fun h => (Issues.clm h).step_eq hm hb, fun h => (Issues.mrg h).step_eq hm hb,
    fun h => (Issues.adv h).step_eq hm hb, fun h => ?_⟩
  rw [step_engine hm, engineStep_fin h hb, ← lo32_eq_extractLsb']

/-- Settles O30: each condition is the predicate of R39 that chooses the action. -/
theorem sequencerLoopPhases : Obligations.SequencerLoopPhases := by
  refine ⟨fun s u hm hb => ?_, fun s op p ha => ?_⟩
  · have leave {p : Phase} (h : Leaves u p) : step s = .next { u with phase := p } :=
      (step_engine hm).trans (h.engineStep_eq hb)
    exact ⟨fun h ha hr => (Issues.align h ⟨unaligned_iff.2 ha, more_iff.2 hr⟩).step_eq hm hb,
      fun h hc => leave (.align h fun ⟨ha, hr⟩ => hc.elim (unaligned_iff.1 ha) (more_iff.1 hr)),
      fun h hr => (Issues.bulk h (bulk_iff.2 hr)).step_eq hm hb,
      fun h hr => leave (.bulk h (mt bulk_iff.1 (Nat.not_le.2 hr))),
      fun h hja hlt => (Issues.laneA h (aTurn_iff.2 ⟨hja, hlt⟩)).step_eq hm hb,
      fun h hA hjb => (Issues.laneB h (mt aTurn_iff.1 hA) (bTurn_iff.2 hjb)).step_eq hm hb,
      fun h hA hjb => leave (.lanes h (mt aTurn_iff.1 hA) (mt bTurn_iff.1 (Nat.not_lt.2 hjb))),
      fun h hr => (Issues.wtail h (word_iff.2 hr)).step_eq hm hb,
      fun h hr => leave (.wtail h (mt word_iff.1 (Nat.not_le.2 hr))),
      fun h hr => (Issues.btail h (more_iff.2 hr)).step_eq hm hb,
      fun h hr => leave (.btail h (mt more_iff.1 (not_not.2 hr)))⟩
  · have htaken := seqAction_taken s
    rw [ha] at htaken
    cases htaken <;> decide

end Sys2Proof.Machine
end

section
/-! PROOFS. The registers of a run: what the invariant says of them does not depend on how memory is listed or on where
the window is shown, so that it can be used from an idle state with any memory. -/

open Sys2Proof Sys2Proof.Machine

namespace Sys2Proof.Machine

/-! ## The canonical form of a memory -/

/-- The cells of a memory at the addresses of a list. -/
def Memory.cellsAt (m : Memory) (l : List Nat) : Memory := l.filterMap fun a => (m.read a).map (a, ·)

theorem Memory.read_cellsAt (m : Memory) (l : List Nat) (a : Nat) :
    (m.cellsAt l).read a = if a ∈ l then m.read a else none := by
  induction l with
  | nil => rfl
  | cons x l ih =>
    rw [Memory.cellsAt, List.filterMap_cons]
    cases hx : m.read x with
    | none =>
      rw [Option.map_none, ← Memory.cellsAt, ih]
      by_cases ha : a = x <;> simp [ha, hx]
    | some b =>
      rw [Option.map_some, ← Memory.cellsAt, Memory.read_cons, ih]
      by_cases ha : x = a
      · simp [← ha, hx]
      · simp [ha, Ne.symm ha]

theorem Memory.mem_cellsAt {m : Memory} {l : List Nat} {c : Host.Cell} (hc : c ∈ m.cellsAt l) : c.1 ∈ l := by
  obtain ⟨a, ha, hac⟩ := List.mem_filterMap.1 hc
  obtain ⟨b, -, rfl⟩ := Option.map_eq_some_iff.1 hac
  exact ha

theorem Memory.cellsAt_keys_sublist (m : Memory) (l : List Nat) : ((m.cellsAt l).map Prod.fst).Sublist l := by
  induction l with
  | nil => exact .slnil
  | cons x l ih =>
    rw [Memory.cellsAt, List.filterMap_cons]
    cases m.read x with
    | none => exact ih.cons x
    | some b => exact ih.cons_cons x

/-- The addresses a memory lists, of those that exist (R56). -/
def Memory.addresses (m : Memory) : Finset Nat := {a ∈ (m.map Prod.fst).toFinset | a < 2 ^ 64}

theorem Memory.mem_addresses {m : Memory} {a : Nat} {b : Byte} (ha : a < 2 ^ 64) (h : m.read a = some b) :
    a ∈ m.addresses :=
  Finset.mem_filter.2 ⟨List.mem_toFinset.2 (List.mem_map_of_mem (f := Prod.fst) (Memory.mem_of_read h)), ha⟩

/-- The same bytes in the canonical form of R56. -/
def Memory.canon (m : Memory) : Memory := m.cellsAt m.addresses.sort

theorem Memory.canon_wf (m : Memory) : m.canon.wf := by
  refine ⟨m.addresses.sortedLT_sort.pairwise.sublist (m.cellsAt_keys_sublist _), fun c hc => ?_⟩
  have haddr : c.1 ∈ m.addresses := (Finset.mem_sort _).1 (Memory.mem_cellsAt hc)
  exact (Finset.mem_filter.1 haddr).2

theorem Memory.read_canon (m : Memory) {a : Nat} (ha : a < 2 ^ 64) : m.canon.read a = m.read a := by
  rw [Memory.canon, Memory.read_cellsAt]
  cases h : m.read a with
  | none => exact ite_self none
  | some b => exact if_pos ((Finset.mem_sort _).2 (Memory.mem_addresses ha h))

theorem memRead8_canon (m : Memory) (a : Addr) : memRead8 m.canon a = memRead8 m a := by
  by_cases hal : a.toNat % 8 = 0
  · have := a.isLt
    exact memRead8_congr fun x _ hx => m.read_canon (by omega)
  · rw [(memRead8_eq_align _ a).2 hal, (memRead8_eq_align _ a).2 hal]

/-! ## A state on a plain platform -/

/-- The registers with the same bytes in canonical form, on a platform that does not show the window. -/
def State.canon (s : State) : State := { s with mem := s.mem.canon, cfg := { s.cfg with windowView := none } }

theorem canon_excludesWindow (s : State) : s.canon.mem.excludesWindow s.canon.cfg := fun _ _ => rfl

/-- An operation completes there as it does here. -/
theorem Completes.canon {s t : State} {i : Instr} (hc : Completes s i t) : Completes s.canon i t.canon := by
  cases hc
  case nop => exact .nop
  case init range => exact .init range
  case s8 b closed more read => exact .s8 b closed more ((Memory.read_canon _ s.ptr.isLt).trans read)
  case s64 w closed room al read => exact .s64 w closed room al ((memRead8_canon _ _).trans read)
  case s8i byte => exact .s8i byte
  case fin => exact .fin
  case fset closed room al => exact .fset closed room al
  case sa w turn read => exact .sa w turn ((memRead8_canon _ s.laneAAddr).trans read)
  case sb w turn read => exact .sb w turn ((memRead8_canon _ s.laneBAddr).trans read)
  case lut opened inRom => exact .lut opened inRom
  case luti index inRom => exact .luti index inRom
  case clm => exact .clm
  case mrg w turn read => exact .mrg w turn ((memRead8_canon _ s.laneBAddr).trans read)
  case adv turn => exact .adv turn
  case crc => exact .crc
  case srst => exact .srst

/-- The sequencer chooses there as it does here: its predicates read neither memory nor the window. -/
theorem Issues.canon {s : State} {op : Instr} {p : Phase} (h : Issues s op p) : Issues s.canon op p := by
  have htaken := seqAction_taken s.canon
  rwa [show seqAction s.canon = .issue op p from h.seqAction_eq] at htaken

/-! ## Running -/

/-- A run in progress: BUSY = 1 and DONE = 0 (R43), with registers as the invariant has them. -/
structure State.Running (s : State) : Prop where
  busy : s.busy = true
  done : s.done = false
  regs : s.canon.RegInv
  phase : s.phaseInv

theorem State.Inv.running {s : State} (h : s.Inv) (hbusy : s.busy = true) : s.Running := by
  obtain ⟨-, hdone, hphase⟩ := h.busyRun hbusy
  exact ⟨hbusy, hdone, { h with memWf := s.mem.canon_wf, windowExcluded := canon_excludesWindow s }, hphase⟩

theorem State.Running.extent {s : State} (h : s.Running) : s.ptr.toNat + s.rem.toNat < 2 ^ 64 := h.regs.extent

theorem State.Running.blockFits {s : State} (h : s.Running) : 16 * s.n.toNat ≤ s.rem.toNat := h.regs.blockFits

theorem State.Running.foldAligned {s : State} (h : s.Running) : s.n ≠ 0 → s.ptr.toNat % 8 = 0 := h.regs.foldAligned

/-- One step of a run that does not end it (R123). -/
inductive RunStep (s : State) : State → Prop
  | goto (p : Phase) (leaves : Leaves s p) : RunStep s (s.gotoPhase p)
  | issue (op : Instr) (p : Phase) (t : State) (issues : Issues s op p) (completes : Completes s op t) :
      RunStep s (t.gotoPhase p)

theorem RunStep.running {s t : State} (hst : RunStep s t) (h : s.Running) : t.Running := by
  cases hst with
  | goto p leaves => exact ⟨h.busy, h.done, { h.regs with }, leaves.phaseInv h.phase⟩
  | issue op p t issues completes =>
    obtain ⟨hbusy, -, -, hdone⟩ := issues.flags completes h.done
    exact ⟨hbusy.trans h.busy, hdone, { completes.canon.regInv h.regs with },
      issues.canon.phaseInv (t := t.canon) completes.canon h.regs h.phase⟩

/-! ## What a run changes -/

/-- Only the datapath's working registers and PHASE differ. -/
def State.RunFrame (s t : State) : Prop := t = { s with
  acca := t.acca, accb := t.accb, ptr := t.ptr, rem := t.rem, n := t.n, ja := t.ja, jb := t.jb, k := t.k, q := t.q,
  phase := t.phase }

theorem State.RunFrame.trans {s t u : State} (hst : s.RunFrame t) (htu : t.RunFrame u) : s.RunFrame u := by
  unfold State.RunFrame at htu
  rw [hst] at htu
  exact htu

theorem RunStep.frame {s t : State} (hst : RunStep s t) (hdone : s.done = false) : s.RunFrame t := by
  cases hst with
  | goto p leaves => rfl
  | issue op p t issues completes =>
    cases issues <;> cases completes
    case init => simp only [State.RunFrame, State.gotoPhase, hdone]
    all_goals rfl

/-! ## The end of a run -/

/-- The read the registers call for next, inside the bytes that remain, touches a byte that is not valid. -/
structure State.ReadFails (s : State) : Prop where
  inside : s.ptr.toNat ≤ s.nextRead.1 ∧ s.nextRead.1 + s.nextRead.2 ≤ s.ptr.toNat + s.rem.toNat
  invalid : s.mem.readBytes s.nextRead.1 s.nextRead.2 = none

/-- The last step of a run: FIN, or a fault of INIT or of a read (R134, R135). -/
inductive RunEnd (s : State) : State → Prop
  | fin (here : s.phase = .fin) : RunEnd s { s with result := lo32 s.acca, done := true, phase := .idle, busy := false }
  | range (here : s.phase = .init) (out : s.outOfRange = true) : RunEnd s (s.raiseFault .range)
  | bus (started : s.phase ≠ .init) (read : s.ReadFails) : RunEnd s (s.raiseFault .bus)

theorem Memory.readBytes_one_eq_none {m : Memory} {a : Nat} (h : m.read a = none) : m.readBytes a 1 = none := by
  simp [Memory.readBytes, h]

/-- S8 is issued where no word can be taken: PTR is misaligned, or fewer than 8 bytes remain (R125, R133). -/
theorem State.ReadFails.byte {s : State} (hn : s.n = 0) (hrem : s.rem ≠ 0)
    (hbyte : ¬(s.ptr.toNat % 8 = 0 ∧ 8 ≤ s.rem.toNat)) (hread : s.mem.read s.ptr.toNat = none) : s.ReadFails := by
  have hnext : s.nextRead = (s.ptr.toNat, 1) := by rw [State.nextRead, if_pos hn, if_neg hbyte]
  have hpos := one_le_toNat hrem
  constructor <;> rw [hnext]
  · exact ⟨le_rfl, by omega⟩
  · exact Memory.readBytes_one_eq_none hread

/-- An aligned word fails by a bus error only. -/
theorem memRead8_error {m : Memory} {a : Addr} {c : FaultCode} (hal : a.toNat % 8 = 0) (h : memRead8 m a = .error c) :
    c = .bus ∧ m.readBytes a.toNat 8 = none := by
  obtain ⟨bs, -, -, hm⟩ | ⟨-, hbs, hm⟩ | ⟨ha, -⟩ := memRead8_cases m a
  · rw [hm] at h
    cases h
  · rw [hm] at h
    cases h
    exact ⟨rfl, hbs⟩
  · rw [(aligned8_iff a).2 hal] at ha
    cases ha

theorem RunEnd.word {s : State} {a : Addr} {c : FaultCode} (started : s.phase ≠ .init)
    (hnext : s.nextRead = (a.toNat, 8)) (hal : a.toNat % 8 = 0) (hlow : s.ptr.toNat ≤ a.toNat)
    (hhigh : a.toNat + 8 ≤ s.ptr.toNat + s.rem.toNat) (herr : memRead8 s.mem a = .error c) :
    RunEnd s (s.raiseFault c) := by
  obtain ⟨rfl, hbs⟩ := memRead8_error hal herr
  exact .bus started ⟨by rw [hnext]; exact ⟨hlow, hhigh⟩, by rw [hnext]; exact hbs⟩

/-- Lane A's read in its turn (R127). -/
theorem RunEnd.laneA {s : State} {c : FaultCode} (h : s.Running) (here : s.phase ≠ .init) (hn : s.n ≠ 0)
    (turn : s.ja.toNat ≤ s.jb.toNat ∧ s.ja.toNat < s.n.toNat) (herr : memRead8 s.mem s.laneAAddr = .error c) :
    RunEnd s (s.raiseFault c) := by
  have hext := h.extent
  have hfit := h.blockFits
  have haddr := laneAAddr_toNat (s := s) (by omega)
  have hnext : s.nextRead = (s.laneAAddr.toNat, 8) := by rw [State.nextRead, if_neg hn, if_pos turn, haddr]
  exact .word here hnext ((laneAAddr_mod_eight s).trans (h.foldAligned hn)) (by omega) (by omega) herr

/-- Lane B's read, where it is not lane A's turn (R127, R130). -/
theorem RunEnd.laneB {s : State} {c : FaultCode} (h : s.Running) (here : s.phase ≠ .init) (hn : s.n ≠ 0)
    (notA : ¬(s.ja.toNat ≤ s.jb.toNat ∧ s.ja.toNat < s.n.toNat)) (hjb : s.jb.toNat < s.n.toNat)
    (herr : memRead8 s.mem s.laneBAddr = .error c) : RunEnd s (s.raiseFault c) := by
  have hext := h.extent
  have hfit := h.blockFits
  have haddr := laneBAddr_toNat (s := s) (by omega)
  have hnext : s.nextRead = (s.laneBAddr.toNat, 8) := by rw [State.nextRead, if_neg hn, if_neg notA, haddr]
  exact .word here hnext ((laneBAddr_mod_eight s).trans (h.foldAligned hn)) (by omega) (by omega) herr

/-- S8 of a run completes or ends it. -/
theorem execS8_running {s t : State} (here : s.phase ≠ .init) (hn : s.n = 0) (hrem : s.rem ≠ 0)
    (hbyte : ¬(s.ptr.toNat % 8 = 0 ∧ 8 ≤ s.rem.toNat)) (he : exec .s8 s = .next t) :
    Completes s .s8 t ∨ RunEnd s t := by
  obtain ⟨hn', -⟩ | ⟨-, hr, -⟩ | ⟨-, -, hread, rfl⟩ | ⟨b, -, -, hread, rfl⟩ := execS8_cases he
  · exact absurd hn hn'
  · exact absurd hr hrem
  · exact .inr (.bus here (.byte hn hrem hbyte hread))
  · exact .inl (.s8 b hn hrem hread)

/-- An operation the sequencer issues passes its order checks, so it completes, or a read or INIT's range ends the run
(R135). -/
theorem Issues.completes_or_ends {s t : State} {op : Instr} {p : Phase} (hi : Issues s op p) (h : s.Running)
    (he : exec op s = .next t) : Completes s op t ∨ RunEnd s t := by
  have hp := h.phase
  cases hi with
  | init here =>
    obtain ⟨out, rfl⟩ | ⟨range, rfl⟩ := execInit_cases he
    · exact .inr (.range here out)
    · exact .inl (.init range)
  | align here cond =>
    simp only [State.phaseInv, here] at hp
    rw [unaligned_iff, more_iff] at cond
    exact execS8_running (by simp [here]) hp cond.2 (fun hal => cond.1 hal.1) he
  | bulk here cond =>
    simp only [State.phaseInv, here] at hp
    rw [bulk_iff] at cond
    obtain ⟨hn, hal⟩ := hp
    obtain ⟨-, -, -, -, -, hleaf, -⟩ : s.cfg.Legal := h.regs.cfgLegal
    have hal : aligned8 s.ptr = true := (aligned8_iff _).2 (hal.resolve_left fun h0 => by simp [h0] at cond; omega)
    obtain ⟨hn', -⟩ | ⟨-, hr, -⟩ | ⟨-, -, ha, -⟩ | ⟨-, hr, -, rfl⟩ := execFset_cases he
    · exact absurd hn hn'
    · omega
    · rw [hal] at ha
      cases ha
    · exact .inl (.fset hn hr hal)
  | laneA here cond =>
    simp only [State.phaseInv, here] at hp
    obtain ⟨hn, -, -⟩ := hp
    rw [aTurn_iff] at cond
    obtain ⟨hbad, -⟩ | ⟨c, -, herr, rfl⟩ | ⟨w, -, read, rfl⟩ := execSa_cases he
    · exact absurd hbad (not_or.2 ⟨hn, Nat.not_le.2 cond.2⟩)
    · exact .inr (.laneA h (by simp [here]) hn cond herr)
    · exact .inl (.sa w ⟨hn, cond.2⟩ read)
  | laneB here notA cond =>
    simp only [State.phaseInv, here] at hp
    obtain ⟨hn, -, -⟩ := hp
    rw [aTurn_iff] at notA
    rw [bTurn_iff] at cond
    obtain ⟨hbad, -⟩ | ⟨c, -, herr, rfl⟩ | ⟨w, -, read, rfl⟩ := execSb_cases he
    · exact absurd hbad (not_or.2 ⟨hn, Nat.not_le.2 cond⟩)
    · exact .inr (.laneB h (by simp [here]) hn notA (Nat.lt_of_succ_lt cond) herr)
    · exact .inl (.sb w ⟨hn, cond⟩ read)
  | lut here =>
    simp only [State.phaseInv, here] at hp
    obtain ⟨hn, -, -⟩ := hp
    obtain ⟨-, -, hdepth, -⟩ : s.cfg.Legal := h.regs.cfgLegal
    have hmax : s.n.toNat ≤ s.cfg.nMax := h.regs.nMax
    have hpos := one_le_toNat hn
    obtain ⟨hn', -⟩ | ⟨-, hrom, -⟩ | ⟨-, inRom, rfl⟩ := execLut_cases he
    · exact absurd hn' hn
    · omega
    · exact .inl (.lut hn inRom)
  | clm here =>
    cases he
    exact .inl .clm
  | mrg here =>
    simp only [State.phaseInv, here] at hp
    obtain ⟨hn, hja, hjb⟩ := hp
    have turn : s.n ≠ 0 ∧ s.ja = s.n ∧ s.jb.toNat = s.n.toNat - 1 := ⟨hn, hja, (lastWord_iff hn).2 hjb⟩
    obtain ⟨hbad, -⟩ | ⟨c, -, herr, rfl⟩ | ⟨w, -, read, rfl⟩ := execMrg_cases he
    · exact absurd hbad (by simpa using turn)
    · exact .inr (.laneB h (by simp [here]) hn (by simp [hja]) (by omega) herr)
    · exact .inl (.mrg w turn read)
  | adv here =>
    simp only [State.phaseInv, here] at hp
    obtain ⟨hbad, -⟩ | ⟨-, rfl⟩ := execAdv_cases he
    · exact absurd hbad (by simpa using hp)
    · exact .inl (.adv hp)
  | wtail here cond =>
    simp only [State.phaseInv, here] at hp
    obtain ⟨hn, hal, -⟩ := hp
    rw [word_iff] at cond
    have hal : s.ptr.toNat % 8 = 0 := hal.resolve_left fun h0 => by simp [h0] at cond
    obtain ⟨hn', -⟩ | ⟨-, hr, -⟩ | ⟨-, -, ha, -⟩ | ⟨-, -, -, herr, rfl⟩ | ⟨w, -, -, ha, read, rfl⟩ := execS64_cases he
    · exact absurd hn hn'
    · omega
    · rw [(aligned8_iff _).2 hal] at ha
      cases ha
    · have hnext : s.nextRead = (s.ptr.toNat, 8) := by rw [State.nextRead, if_pos hn, if_pos ⟨hal, cond⟩]
      exact .inr (.word (by simp [here]) hnext hal le_rfl (by omega) herr)
    · exact .inl (.s64 w hn cond ha read)
  | btail here cond =>
    simp only [State.phaseInv, here] at hp
    obtain ⟨hn, hrem⟩ := hp
    rw [more_iff] at cond
    exact execS8_running (by simp [here]) hn cond (by omega) he

/-- A fault entry clears BUSY, so the phase after the operation is not set (R123, R141). -/
theorem RunEnd.busy {s t : State} (h : RunEnd s t) : t.busy = false := by
  cases h <;> rfl

/-- Everything the engine does in a run: one step on, or the end (R124 to R135). -/
theorem engineStep_running {s t : State} (h : s.Running) (he : engineStep s = .next t) : RunStep s t ∨ RunEnd s t := by
  have htaken := seqAction_taken s
  obtain ⟨hb, -⟩ | ⟨-, ha, -⟩ | ⟨p, -, ha, rfl⟩ | ⟨op, p, u, -, ha, hu, rfl⟩ | ⟨u, -, ha, -, -⟩ := engineStep_cases he
  · rw [h.busy] at hb
    cases hb
  · rw [ha] at htaken
    have hp := h.phase
    obtain here | here := htaken <;> simp [State.phaseInv, here] at hp
  · rw [ha] at htaken
    exact .inl (.goto p htaken)
  · rw [ha] at htaken
    obtain hc | hend := Issues.completes_or_ends htaken h hu
    · obtain ⟨hbusy, -⟩ := Issues.flags htaken hc h.done
      rw [if_pos (hbusy.trans h.busy)]
      exact .inl (.issue op p u htaken hc)
    · rw [hend.busy]
      exact .inr hend
  · rw [ha] at htaken
    rw [engineStep_fin htaken h.busy] at he
    cases he
    exact .inr (.fin htaken)

/-- Settles O37: a step that does not end the run leaves FAULT clear, and the ends with FAULT = 1 are the fault entries
of INIT's range and of a read. -/
theorem sequencerFaultsAreBusOrRange : Obligations.SequencerFaultsAreBusOrRange := by
  intro s u t hs hm hb hstep hfault
  rw [step_engine hm] at hstep
  obtain ⟨ms, hms⟩ := nextMove_state s
  rw [hm] at hms
  have hu : u.Inv := by
    rw [show u = s.withSchedule ms from hms]
    exact { hs with }
  obtain ⟨hf, hd, -⟩ := hu.busyRun hb
  obtain hst | hend := engineStep_running (hu.running hb) hstep
  · rw [hst.frame hd, hf] at hfault
    cases hfault
  · cases hend with
    | fin here =>
      rw [hf] at hfault
      cases hfault
    | range here out => exact ⟨.inr rfl, hd, rfl⟩
    | bus started read => exact ⟨.inl rfl, hd, rfl⟩

end Sys2Proof.Machine
end

section
/-! PROOFS. A run comes to its end: each of its steps brings it nearer (O60). -/

open Sys2Proof Sys2Proof.Machine

namespace Sys2Proof.Machine

/-! ## How far a run is from its end -/

/-- The bytes still to come: the buffer's length is not known before INIT, but is less than 2^32. -/
def State.bytesLeft (s : State) : Nat := if s.phase = .init then 2 ^ 32 else s.rem.toNat

/-- The bytes still to come, then the phases before P_FIN, then the lane steps of the open fold (R136). -/
def State.rank (s : State) : Nat :=
  2 ^ 13 * s.bytesLeft + 2 ^ 9 * (15 - s.phase.code.toNat) + (510 - (s.ja.toNat + s.jb.toNat))

section
variable {s t : State}

theorem rank_lt_of_bytes (h : t.bytesLeft < s.bytesLeft) : t.rank < s.rank := by
  unfold State.rank
  omega

theorem rank_lt_of_rem {p : Phase} (hs : s.phase ≠ .init) (hp : p ≠ .init) (h : t.rem.toNat < s.rem.toNat) :
    (t.gotoPhase p).rank < s.rank := by
  refine rank_lt_of_bytes ?_
  rwa [State.bytesLeft, State.bytesLeft, if_neg hs, if_neg (show (t.gotoPhase p).phase ≠ .init from hp)]

theorem rank_lt_of_phase (hrem : t.bytesLeft = s.bytesLeft) (h : s.phase.code.toNat < t.phase.code.toNat) :
    t.rank < s.rank := by
  have := t.phase.code.isLt
  unfold State.rank
  omega

theorem rank_lt_of_lanes (hrem : t.bytesLeft = s.bytesLeft) (hphase : t.phase = s.phase)
    (h : s.ja.toNat + s.jb.toNat < t.ja.toNat + t.jb.toNat) : t.rank < s.rank := by
  have := t.ja.isLt
  have := t.jb.isLt
  unfold State.rank
  rw [hrem, hphase]
  omega

/-- A phase left without an operation is left for one with a higher code (R34). -/
theorem Leaves.rank_lt {p : Phase} (h : Leaves s p) : (s.gotoPhase p).rank < s.rank := by
  cases h with
  | align here | bulk here | lanes here | wtail here | btail here =>
    exact rank_lt_of_phase (by simp [State.bytesLeft, here]) (by simp [here, Phase.code])

/-- An operation of the sequencer takes bytes, or a lane step, or goes on to a phase with a higher code. -/
theorem Issues.rank_lt {op : Instr} {p : Phase} (hi : Issues s op p) (hc : Completes s op t) (h : s.Running) :
    (t.gotoPhase p).rank < s.rank := by
  have hext := h.extent
  cases hi with
  | init here =>
    cases hc
    refine rank_lt_of_bytes ?_
    rw [State.bytesLeft, State.bytesLeft, if_pos here, if_neg nofun]
    exact s.len.isLt
  | align here cond | btail here cond =>
    cases hc with | s8 b closed more read =>
    obtain ⟨-, hr⟩ := consume_toNat (d := 1) (one_le_toNat more) hext
    exact rank_lt_of_rem (by simp [here]) nofun (hr.trans_lt (Nat.sub_lt (one_le_toNat more) Nat.one_pos))
  | wtail here cond =>
    cases hc with | s64 w closed room al read =>
    obtain ⟨-, hr⟩ := consume_toNat (d := 8) room hext
    exact rank_lt_of_rem (by simp [here]) nofun (hr.trans_lt (Nat.sub_lt (by omega) (by decide)))
  | adv here =>
    cases hc with | adv turn =>
    have hpos := one_le_toNat turn.1
    have hfit := h.blockFits
    obtain ⟨-, hr⟩ := consume_toNat (d := s.blockBytes) ((blockBytes_toNat s).trans_le hfit) hext
    exact rank_lt_of_rem (by simp [here]) nofun (hr.trans_lt (by rw [blockBytes_toNat]; omega))
  | laneA here cond =>
    cases hc with | sa w turn read =>
    have hstep := toNat_add_one turn.2
    refine rank_lt_of_lanes ?_ here.symm ?_
    · simp [State.bytesLeft, here]
    · exact Nat.add_lt_add_right (hstep ▸ Nat.lt_succ_self _) _
  | laneB here notA cond =>
    cases hc with | sb w turn read =>
    have hstep := toNat_add_one (Nat.lt_of_succ_lt turn.2)
    refine rank_lt_of_lanes ?_ here.symm ?_
    · simp [State.bytesLeft, here]
    · exact Nat.add_lt_add_left (hstep ▸ Nat.lt_succ_self _) _
  | bulk here | lut here | clm here | mrg here =>
    cases hc
    exact rank_lt_of_phase (by simp [State.bytesLeft, here]) (by simp [here, Phase.code])

theorem RunStep.rank_lt (hst : RunStep s t) (h : s.Running) : t.rank < s.rank := by
  cases hst with
  | goto p leaves => exact leaves.rank_lt
  | issue op p t issues completes => exact issues.rank_lt completes h

end

/-! ## Runs of the machine -/

/-- One step and then the rest. -/
theorem run_succ {s t : State} (h : step s = .next t) (k : Nat) :
    Host.Core.run Sys2Proof.core (k + 1) s = Host.Core.run Sys2Proof.core k t := by
  simp only [Host.Core.run, show Sys2Proof.core.step s = .next t from h]

/-- With no other agent's move left, the engine steps (R168). -/
theorem step_quiet {s : State} (hquiet : s.schedule = []) : step s = engineStep s := step_engine (nextMove_nil hquiet)

/-- A run comes to its last step, and what its steps keep holds of the state `u` before that one. -/
theorem State.Running.ends {P : State → Prop} (hkeep : ∀ s t, s.Running → RunStep s t → P s → P t) {s : State}
    (h : s.Running) (hquiet : s.schedule = []) (hP : P s) :
    ∃ k u t, Host.Core.run Sys2Proof.core k s = .next t ∧ u.Running ∧ s.RunFrame u ∧ P u ∧ RunEnd u t := by
  obtain ⟨t, ht⟩ := everyStateHasANextOne s
  obtain hst | hend := engineStep_running h ((step_quiet hquiet).symm.trans ht)
  · have hframe := hst.frame h.done
    have hlt := hst.rank_lt h
    obtain ⟨k, u, v, hrun, hu, hsu, hPu, hend⟩ :=
      State.Running.ends hkeep (hst.running h) (by rw [hframe]; exact hquiet) (hkeep s t h hst hP)
    exact ⟨k + 1, u, v, (run_succ ht k).trans hrun, hu, hframe.trans hsu, hPu, hend⟩
  · exact ⟨1, s, t, run_succ ht 0, h, rfl, hP, hend⟩
termination_by s.rank

/-- Settles O60: by `Running.ends`, since a busy state of the invariant is a run in progress. -/
theorem everyRunEnds : Obligations.EveryRunEnds := by
  intro s hs hb hquiet
  obtain ⟨k, u, t, hrun, -, -, -, hend⟩ := (hs.running hb).ends (P := fun _ => True) (fun _ _ _ _ _ => trivial) hquiet
    trivial
  exact ⟨k, t, hrun, hend.busy⟩

end Sys2Proof.Machine
end

section
/-! PROOFS. The supporting invariant of R135 along a run: the bytes consumed, and the words of the lanes. -/

open Sys2Proof Sys2Proof.Machine

namespace Sys2Proof.Machine

/-! ## Reads put together -/

theorem Memory.readBytes_append {m : Memory} {j k : Nat} {cs : List Byte} :
    ∀ {a : Nat} {bs : List Byte}, m.readBytes a j = some bs → m.readBytes (a + j) k = some cs →
      m.readBytes a (j + k) = some (bs ++ cs) := by
  induction j with
  | zero =>
    intro a bs hbs hcs
    cases hbs
    rwa [Nat.zero_add]
  | succ j ih =>
    intro a bs hbs hcs
    rw [Memory.readBytes] at hbs
    split at hbs
    case h_2 => cases hbs
    case h_1 b bs' hb hbs' =>
      cases hbs
      rw [Nat.succ_add, Memory.readBytes, hb, ih hbs' (by rwa [Nat.add_assoc, Nat.add_comm 1])]
      rfl

/-- A word's bytes are the bytes it was read from (R58). -/
theorem bytesOfWord_wordOfBytes {bs : List Byte} (hlen : bs.length = 8) : bytesOfWord (wordOfBytes bs) = bs := by
  refine List.ext_getElem (by simp [bytesOfWord, hlen]) fun i _ hi => ?_
  simp [bytesOfWord, wordOfBytes_byte hlen.le hi]

theorem memRead8_readBytes {m : Memory} {a : Addr} {w : Word64} (h : memRead8 m a = .ok w) :
    m.readBytes a.toNat 8 = some (bytesOfWord w) := by
  obtain ⟨bs, -, hbs, hm⟩ | ⟨-, -, hm⟩ | ⟨-, hm⟩ := memRead8_cases m a <;> rw [hm] at h <;> cases h
  rw [bytesOfWord_wordOfBytes (Memory.readBytes_length hbs), hbs]

theorem wordOfBytes_bytesOfWord (w : Word64) : wordOfBytes (bytesOfWord w) = w := by
  have hlen : (bytesOfWord w).length = 8 := by simp [bytesOfWord]
  refine word64_ext fun i hi => ?_
  rw [wordOfBytes_byte hlen.le (hlen ▸ hi)]
  simp [bytesOfWord]

/-- The words of a lane are as many as its steps, and their bytes are those of its stretch of memory. -/
theorem readWords_bytes {m : Memory} {count : Nat} : ∀ {a : Nat} {ws : List Word64}, readWords m a count = some ws →
    ws.length = count ∧ m.readBytes a (8 * count) = some (ws.flatMap bytesOfWord) := by
  induction count with
  | zero =>
    intro a ws h
    cases h
    exact ⟨rfl, rfl⟩
  | succ count ih =>
    intro a ws h
    rw [readWords] at h
    split at h
    case h_2 => cases h
    case h_1 bs ws' hbs hws =>
      cases h
      obtain ⟨hlen, hbytes⟩ := ih hws
      refine ⟨congrArg Nat.succ hlen, ?_⟩
      rw [Nat.mul_succ, Nat.add_comm, List.flatMap_cons, bytesOfWord_wordOfBytes (Memory.readBytes_length hbs)]
      exact Memory.readBytes_append hbs hbytes

/-- A lane step takes the next word of its lane. -/
theorem readWords_snoc {m : Memory} {w : Word64} {count : Nat} : ∀ {a : Nat} {ws : List Word64},
    readWords m a count = some ws → m.readBytes (a + 8 * count) 8 = some (bytesOfWord w) →
      readWords m a (count + 1) = some (ws ++ [w]) := by
  induction count with
  | zero =>
    intro a ws h hw
    cases h
    rw [Nat.mul_zero, Nat.add_zero] at hw
    simp [readWords, hw, wordOfBytes_bytesOfWord]
  | succ count ih =>
    intro a ws h hw
    rw [readWords] at h
    split at h
    case h_2 => cases h
    case h_1 bs ws' hbs hws =>
      cases h
      have hrest : readWords m (a + 8) (count + 1) = some (ws' ++ [w]) :=
        ih hws (by rwa [Nat.add_assoc, Nat.add_comm 8, ← Nat.mul_succ])
      rw [readWords, hbs, hrest]
      rfl

/-! ## The datapath as the oracle over bytes -/

theorem chain64_eq_crcSerial (c : Word32) (ws : List Word64) :
    chain64 (zext64 c) ws = zext64 (crcSerial c (ws.flatMap bytesOfWord)) := by
  rw [← zext64_lo32_chain64, lo32_chain64_eq_crcSerial, lo32_zext64]

theorem step64_eq_crcSerial (c : Word32) (w : Word64) :
    step64 (zext64 c) w = zext64 (crcSerial c (bytesOfWord w)) := by
  rw [← zext64_lo32_step64, lo32_step64_eq_crcSerial, lo32_zext64]

/-! ## The supporting invariant -/

/-- INIT begins it: no byte is consumed yet (R106). -/
theorem Completes.init_runInv {s t : State} (hc : Completes s .init t) (p : Phase) (hp : p ≠ .clm ∧ p ≠ .mrg) :
    (t.gotoPhase p).RunInv := by
  cases hc
  exact {
    start := le_rfl
    extent := rfl
    serial := fun _ => ⟨[], by simp [State.consumedBytes, Memory.readBytes], rfl⟩
    lanes := fun hn => absurd rfl hn
    constant := fun h => absurd h (not_or.2 hp)
    product := fun h => absurd h hp.2 }

/-- Moving PTR past valid bytes keeps it, if the accumulator has taken those bytes and no fold is open then. -/
theorem State.RunInv.consume {s t : State} {bytes more : List Byte} {d : Nat} (h : s.RunInv)
    (hbytes : s.consumedBytes = some bytes) (hmore : s.mem.readBytes s.ptr.toNat d = some more)
    (hptr : t.ptr.toNat = s.ptr.toNat + d) (hext : t.extentEnd = s.extentEnd)
    (hsame : t.buf = s.buf ∧ t.len = s.len ∧ t.seed = s.seed ∧ t.mem = s.mem)
    (hacca : t.acca = zext64 (crcSerial s.seed (bytes ++ more))) (hn : t.n = 0)
    (hphase : t.phase ≠ .clm ∧ t.phase ≠ .mrg) : t.RunInv := by
  obtain ⟨hbuf, hlen, hseed, hmem⟩ := hsame
  have hstart := h.start
  have hconsumed : t.consumedBytes = some (bytes ++ more) := by
    rw [State.consumedBytes, hmem, hbuf, hptr, Nat.sub_add_comm hstart]
    exact Memory.readBytes_append hbytes (by rwa [Nat.add_sub_cancel' hstart])
  exact {
    start := by rw [hbuf, hptr]; exact Nat.le_add_right_of_le hstart
    extent := by rw [hext, h.extent, hbuf, hlen]
    serial := fun _ => ⟨_, hconsumed, hseed ▸ hacca⟩
    lanes := fun hn' => absurd hn hn'
    constant := fun hp => absurd hp (not_or.2 hphase)
    product := fun hp => absurd hp hphase.2 }

/-- S8 takes one byte (R107). -/
theorem State.RunInv.s8 {s t : State} (h : s.RunInv) (hrun : s.Running) (hc : Completes s .s8 t) (p : Phase)
    (hp : p ≠ .clm ∧ p ≠ .mrg) : (t.gotoPhase p).RunInv := by
  cases hc with | s8 b closed more read =>
  obtain ⟨bytes, hbytes, hacca⟩ := h.serial closed
  have hpos := one_le_toNat more
  refine h.consume (d := 1) (more := [b]) hbytes ?_ (consume_toNat (d := 1) hpos hrun.extent).1
    (consume_extent (d := 1) hpos hrun.extent) ⟨rfl, rfl, rfl, rfl⟩ ?_ closed hp
  · simp [Memory.readBytes, read]
  · rw [crcSerial_append, crcSerial_cons, crcSerial_nil, serialBits_eight, gotoPhase_acca]
    simp only [hacca, lo32_zext64]

/-- S64 takes one word (R108). -/
theorem State.RunInv.s64 {s t : State} (h : s.RunInv) (hrun : s.Running) (hc : Completes s .s64 t) (p : Phase)
    (hp : p ≠ .clm ∧ p ≠ .mrg) : (t.gotoPhase p).RunInv := by
  cases hc with | s64 w closed room al read =>
  obtain ⟨bytes, hbytes, hacca⟩ := h.serial closed
  refine h.consume (d := 8) hbytes (memRead8_readBytes read) (consume_toNat (d := 8) room hrun.extent).1
    (consume_extent (d := 8) room hrun.extent) ⟨rfl, rfl, rfl, rfl⟩ ?_ closed hp
  rw [crcSerial_append, ← step64_eq_crcSerial, gotoPhase_acca, ← hacca]

/-- ADV passes the open block, whose words the lanes have taken (R118). -/
theorem State.RunInv.adv {s t : State} (h : s.RunInv) (hrun : s.Running) (hc : Completes s .adv t) (p : Phase)
    (hp : p ≠ .clm ∧ p ≠ .mrg) : (t.gotoPhase p).RunInv := by
  cases hc with | adv turn =>
  obtain ⟨hn, hja, hjb⟩ := turn
  obtain ⟨bytes, as, bs, hbytes, has, hbs, hacc⟩ := h.lanes hn
  rw [if_pos hjb] at hacc
  rw [State.laneAWords, hja] at has
  rw [State.laneBWords, hjb] at hbs
  have hfit := (blockBytes_toNat s).trans_le hrun.blockFits
  have hblock : s.mem.readBytes s.ptr.toNat s.blockBytes.toNat = some ((as ++ bs).flatMap bytesOfWord) := by
    rw [blockBytes_toNat, show 16 * s.n.toNat = 8 * s.n.toNat + 8 * s.n.toNat by omega, List.flatMap_append]
    exact Memory.readBytes_append (readWords_bytes has).2 (readWords_bytes hbs).2
  refine h.consume hbytes hblock (consume_toNat hfit hrun.extent).1 (consume_extent hfit hrun.extent)
    ⟨rfl, rfl, rfl, rfl⟩ ?_ rfl hp
  rw [crcSerial_append, ← chain64_eq_crcSerial]
  exact hacc

/-- The words of lane A with the one SA reads (R112). -/
theorem laneAWords_snoc {s : State} {as : List Word64} {w : Word64} (hrun : s.Running)
    (hja : s.ja.toNat < s.n.toNat) (has : s.laneAWords = some as) (read : memRead8 s.mem s.laneAAddr = .ok w) :
    readWords s.mem s.ptr.toNat (s.ja + 1).toNat = some (as ++ [w]) := by
  have hext := hrun.extent
  have hfit := hrun.blockFits
  have hword := memRead8_readBytes read
  rw [laneAAddr_toNat (by omega)] at hword
  rw [toNat_add_one hja]
  exact readWords_snoc has hword

/-- The words of lane B with the one SB or MRG reads (R113, R117). -/
theorem laneBWords_snoc {s : State} {bs : List Word64} {w : Word64} (hrun : s.Running)
    (hjb : s.jb.toNat < s.n.toNat) (hbs : s.laneBWords = some bs) (read : memRead8 s.mem s.laneBAddr = .ok w) :
    readWords s.mem (s.ptr.toNat + 8 * s.n.toNat) (s.jb + 1).toNat = some (bs ++ [w]) := by
  have hext := hrun.extent
  have hfit := hrun.blockFits
  have hword := memRead8_readBytes read
  rw [laneBAddr_toNat (by omega)] at hword
  rw [toNat_add_one hjb]
  exact readWords_snoc hbs hword

/-- FSET opens a fold in which no word has been taken (R111). -/
theorem State.RunInv.fset {s t : State} (h : s.RunInv) (hc : Completes s .fset t) (hn : t.n ≠ 0) :
    (t.gotoPhase .lanes).RunInv := by
  cases hc with | fset closed room al =>
  obtain ⟨bytes, hbytes, hacca⟩ := h.serial closed
  have hfresh : s.acca = chain64 (zext64 (crcSerial s.seed bytes)) [] := by rw [chain64, lo32_zext64, hacca]
  exact { h with
    serial := fun h0 => absurd h0 hn
    lanes := fun _ => ⟨bytes, [], [], hbytes, rfl, rfl, Eq.mpr (if_neg (Ne.symm hn)) ⟨hfresh, rfl⟩⟩
    constant := nofun
    product := nofun }

/-- SA chains one word of lane A (R112). -/
theorem State.RunInv.sa {s t : State} (h : s.RunInv) (hrun : s.Running) (hc : Completes s .sa t)
    (hjb : s.jb.toNat < s.n.toNat) : (t.gotoPhase .lanes).RunInv := by
  cases hc with | sa w turn read =>
  obtain ⟨hn, hja⟩ := turn
  obtain ⟨bytes, as, bs, hbytes, has, hbs, hacc⟩ := h.lanes hn
  have hopen : s.jb ≠ s.n := fun heq => Nat.ne_of_lt hjb (congrArg BitVec.toNat heq)
  rw [if_neg hopen] at hacc
  obtain ⟨hacca, haccb⟩ := hacc
  have hacca' : step64 s.acca w = chain64 (zext64 (crcSerial s.seed bytes)) (as ++ [w]) := by
    rw [chain64_append, chain64_singleton, hacca]
  exact { h with
    serial := fun h0 => absurd h0 hn
    lanes := fun _ => ⟨bytes, as ++ [w], bs, hbytes, laneAWords_snoc hrun hja has read, hbs,
      Eq.mpr (if_neg hopen) ⟨hacca', haccb⟩⟩
    constant := nofun
    product := nofun }

/-- SB chains one word of lane B, not its last (R113). -/
theorem State.RunInv.sb {s t : State} (h : s.RunInv) (hrun : s.Running) (hc : Completes s .sb t) :
    (t.gotoPhase .lanes).RunInv := by
  cases hc with | sb w turn read =>
  obtain ⟨hn, hlt⟩ := turn
  have hjb := Nat.lt_of_succ_lt hlt
  obtain ⟨bytes, as, bs, hbytes, has, hbs, hacc⟩ := h.lanes hn
  have hopen : s.jb ≠ s.n := fun heq => Nat.ne_of_lt hjb (congrArg BitVec.toNat heq)
  have hopen' : s.jb + 1 ≠ s.n := fun heq =>
    Nat.ne_of_lt hlt ((toNat_add_one hjb).symm.trans (congrArg BitVec.toNat heq))
  rw [if_neg hopen] at hacc
  obtain ⟨hacca, haccb⟩ := hacc
  have haccb' : step64 s.accb w = chain64 0 (bs ++ [w]) := by rw [chain64_append, chain64_singleton, haccb]
  exact { h with
    serial := fun h0 => absurd h0 hn
    lanes := fun _ => ⟨bytes, as, bs ++ [w], hbytes, has, laneBWords_snoc hrun hjb hbs read,
      Eq.mpr (if_neg hopen') ⟨hacca, haccb'⟩⟩
    constant := nofun
    product := nofun }

/-- MRG makes ACCA the chain of all words of the block: `mergeFoldsTheLanes` (R102, R117). -/
theorem State.RunInv.mrg {s t : State} (h : s.RunInv) (hrun : s.Running) (here : s.phase = .mrg)
    (hc : Completes s .mrg t) : (t.gotoPhase .adv).RunInv := by
  cases hc with | mrg w turn read =>
  obtain ⟨hn, hja, hlast⟩ := turn
  rw [lastWord_iff hn] at hlast
  have hjb := Nat.lt_of_succ_le hlast.le
  have hmerged : s.jb + 1 = s.n := BitVec.eq_of_toNat_eq ((toNat_add_one hjb).trans hlast)
  have hopen : s.jb ≠ s.n := fun heq => Nat.ne_of_lt hjb (congrArg BitVec.toNat heq)
  obtain ⟨bytes, as, bs, hbytes, has, hbs, hacc⟩ := h.lanes hn
  rw [if_neg hopen] at hacc
  obtain ⟨hacca, haccb⟩ := hacc
  have hlenA : as.length = s.n.toNat := hja ▸ (readWords_bytes has).1
  have hlenB : bs.length = s.jb.toNat := (readWords_bytes hbs).1
  have hacca' : step64 s.accb (s.q ^^^ w) = chain64 (zext64 (crcSerial s.seed bytes)) (as ++ (bs ++ [w])) := by
    rw [haccb, h.product here, h.constant (.inr here), hacca, ← hlenA, mergeFoldsTheLanes _ as bs w (by omega)]
  exact { h with
    serial := fun h0 => absurd h0 hn
    lanes := fun _ => ⟨bytes, as, bs ++ [w], hbytes, has, laneBWords_snoc hrun hjb hbs read,
      Eq.mpr (if_pos hmerged) hacca'⟩
    constant := nofun
    product := nofun }

/-- An operation of the sequencer keeps the supporting invariant (R125 to R133). -/
theorem Issues.runInv {s t : State} {op : Instr} {p : Phase} (hi : Issues s op p) (hc : Completes s op t)
    (hrun : s.Running) (h : s.RunInv) : (t.gotoPhase p).RunInv := by
  have hnext := hi.canon.phaseInv (t := t.canon) hc.canon hrun.regs hrun.phase
  have hphase := hrun.phase
  cases hi with
  | init here => exact hc.init_runInv _ ⟨nofun, nofun⟩
  | align here cond | btail here cond => exact h.s8 hrun hc _ ⟨nofun, nofun⟩
  | bulk here cond => exact h.fset hc hnext.1
  | laneA here cond =>
    simp only [State.phaseInv, here] at hphase
    exact h.sa hrun hc hphase.2.1
  | laneB here notA cond => exact h.sb hrun hc
  | lut here =>
    cases hc
    exact { h with constant := fun _ => rfl, product := nofun }
  | clm here =>
    cases hc
    exact { h with constant := fun _ => h.constant (.inl here), product := fun _ => rfl }
  | mrg here => exact h.mrg hrun here hc
  | adv here => exact h.adv hrun hc _ ⟨nofun, nofun⟩
  | wtail here cond => exact h.s64 hrun hc _ ⟨nofun, nofun⟩

/-- No phase change without an operation leads to P_CLM or P_MRG. -/
theorem Leaves.runInv {s : State} {p : Phase} (hl : Leaves s p) (h : s.RunInv) : (s.gotoPhase p).RunInv := by
  cases hl <;> exact { h with constant := nofun, product := nofun }

theorem RunStep.runInv {s t : State} (hst : RunStep s t) (hrun : s.Running) (h : s.RunInv) : t.RunInv := by
  cases hst with
  | goto p leaves => exact leaves.runInv h
  | issue op p t issues completes => exact issues.runInv completes hrun h

/-- INIT is the step out of P_INIT. -/
theorem RunStep.init_runInv {s t : State} (hst : RunStep s t) (here : s.phase = .init) : t.RunInv := by
  cases hst with
  | goto p leaves => cases (Issues.init here).seqAction_eq.symm.trans leaves.seqAction_eq
  | issue op p t issues completes =>
    cases (Issues.init here).seqAction_eq.symm.trans issues.seqAction_eq
    exact completes.init_runInv _ ⟨nofun, nofun⟩

/-- The registers FIN or a fault leaves still meet it (R148). -/
theorem RunEnd.runInv {s t : State} (hend : RunEnd s t) (h : s.RunInv) : t.RunInv := by
  cases hend <;> exact { h with constant := nofun, product := nofun }

/-! ## The other agents -/

/-- A busy block drops what the host writes (R52, R120). -/
theorem hostWrite_busy {s t : State} {off : Offset} {v : Word32} (hb : s.busy = true)
    (h : hostWrite s off v = .next t) : t = s.dropAccess := by
  obtain rfl | ⟨-, hc⟩ | ⟨hb', -⟩ := hostWrite_cases h
  · rfl
  · obtain rfl | ⟨i, -, hb', -, -⟩ := command_cases hc
    · rfl
    · rw [hb] at hb'
      cases hb'
  · rw [hb] at hb'
    cases hb'

/-- What a move of a run's machine leaves of the supporting invariant, but for another writer's and a reset. -/
theorem takeMove_runInv {m : Move} {s t : State} (hs : s.Inv) (hb : s.busy = true) (hr : s.phase = .init ∨ s.RunInv)
    (hwrite : ∀ a bs, m ≠ .memWrite a bs) (hreset : m ≠ .hwReset) (h : takeMove m s = .next t) :
    (s.phase = .init ∧ (t.phase = .init ∨ t.fcode = some .range)) ∨ t.RunInv := by
  cases m with
  | hostWrite off v =>
    rw [hostWrite_busy hb h]
    exact hr.imp (fun here => ⟨here, .inl here⟩) fun hr => { hr with }
  | hostRead off =>
    cases h
    exact hr.imp (fun here => ⟨here, .inl here⟩) fun hr => { hr with }
  | engine =>
    obtain hst | hend := engineStep_running (hs.running hb) h
    · exact .inr (hr.elim hst.init_runInv (hst.runInv (hs.running hb)))
    · obtain here | hr := hr
      · cases hend with
        | fin here' => simp [here'] at here
        | range => exact .inl ⟨here, .inr rfl⟩
        | bus started => exact absurd here started
      · exact .inr (hend.runInv hr)
  | memWrite a bytes => exact absurd rfl (hwrite a bytes)
  | hwReset => exact absurd rfl hreset

end Sys2Proof.Machine
end

section
/-! PROOFS. Whole runs of the CRC command: over a valid buffer (O58), and its faults (O59). -/

open Sys2Proof Sys2Proof.Machine

namespace Sys2Proof.Machine

/-! ## The first two steps -/

/-- The state CRC's acceptance leaves, with no move left to come (R122). -/
def State.accepted (s : State) : State := { s with schedule := [], busy := true, done := false, phase := .init }

theorem step_accepted {s : State} (hb : s.busy = false) (hf : s.fault = false)
    (hs : s.schedule = [.hostWrite cmdOffset 0x00000010#32]) : step s = .next s.accepted := by
  have hd : decode 0x00000010#32 = .ok .crc := (decode_eq_ok_iff_maskZ rfl).2 rfl
  rw [step_command hs, command_accepted (s := s.withSchedule []) hd hb (.inl hf)]
  rfl

/-- The state INIT leaves then (R106, R124). -/
def State.begun (s : State) : State := { s.accepted with
  acca := zext64 s.seed, accb := 0, ptr := s.buf, rem := s.len, n := 0, ja := 0, jb := 0, k := 0, q := 0,
  phase := .align }

section
variable {s : State} (hrange : s.buf.toNat + s.len.toNat < 2 ^ 64)

include hrange

theorem accepted_init : Completes s.accepted .init { s.begun with phase := .init } :=
  .init (outOfRange_eq_false (s := s.accepted).2 hrange)

theorem step_begun : step s.accepted = .next s.begun :=
  (Issues.init (s := s.accepted) rfl).step_eq rfl rfl _ (accepted_init hrange).exec_eq

theorem begun_runStep : RunStep s.accepted s.begun :=
  .issue .init .align _ (.init rfl) (accepted_init hrange)

theorem begun_running (hc : s.cfg.Legal) : s.begun.Running where
  busy := rfl
  done := rfl
  regs := .of_closed hc (Memory.canon_wf _) (canon_excludesWindow _) rfl rfl rfl rfl (zext64_lt _) (Nat.two_pow_pos 63)
    hrange
  phase := rfl

end

/-! ## The end -/

/-- With no open fold the fold's counters and lane B's accumulator are zero (R20, R26, R27). -/
theorem State.Running.closed {s : State} (h : s.Running) (hn : s.n = 0) : s.ja = 0 ∧ s.jb = 0 ∧ s.accb = 0 := by
  have hja : s.ja.toNat ≤ s.n.toNat := h.regs.jaMax
  have hjb : s.jb.toNat ≤ s.n.toNat := h.regs.jbMax
  rw [hn] at hja hjb
  exact ⟨BitVec.eq_of_toNat_eq (Nat.le_zero.1 hja), BitVec.eq_of_toNat_eq (Nat.le_zero.1 hjb), h.regs.accbClosed hn⟩

/-- In P_FIN the whole buffer is consumed (R134). -/
theorem State.Running.buffer_of_fin {s : State} (h : s.Running) (hr : s.RunInv) (here : s.phase = .fin) :
    s.n = 0 ∧ s.rem = 0 ∧ s.ptr.toNat = s.buf.toNat + s.len.toNat ∧
      ∃ bytes, s.bufferBytes = some bytes ∧ s.acca = zext64 (crcSerial s.seed bytes) := by
  have hphase := h.phase
  simp only [State.phaseInv, here] at hphase
  obtain ⟨hn, hrem⟩ := hphase
  have hext : s.ptr.toNat + s.rem.toNat = s.buf.toNat + s.len.toNat := hr.extent
  have hptr : s.ptr.toNat = s.buf.toNat + s.len.toNat := by simpa [hrem] using hext
  obtain ⟨bytes, hbytes, hacca⟩ := hr.serial hn
  rw [State.consumedBytes, hptr, Nat.add_sub_cancel_left] at hbytes
  exact ⟨hn, hrem, hptr, bytes, hbytes, hacca⟩

/-- A read that fails does so on a byte of the buffer. -/
theorem State.ReadFails.bufferBytes {s : State} (h : s.ReadFails) (hr : s.RunInv) : s.bufferBytes = none := by
  obtain ⟨i, hi, hnone⟩ := Memory.readBytes_eq_none.1 h.invalid
  obtain ⟨hlow, hhigh⟩ := h.inside
  have hstart := hr.start
  have hext : s.ptr.toNat + s.rem.toNat = s.buf.toNat + s.len.toNat := hr.extent
  exact Memory.readBytes_eq_none.2 ⟨s.nextRead.1 + i - s.buf.toNat, by omega,
    by rwa [Nat.add_sub_cancel' (by omega)]⟩

/-- A run does not touch its operands (R52), nor the bytes of its buffer. -/
theorem State.RunFrame.operands {s u : State} (h : s.accepted.RunFrame u) :
    u.buf = s.buf ∧ u.len = s.len ∧ u.seed = s.seed ∧ u.bufferBytes = s.bufferBytes := by
  rw [h]
  exact ⟨rfl, rfl, rfl, rfl⟩

/-- Every run whose buffer is in range comes to its last step, from a state `u` of the run with the supporting
invariant. -/
theorem crc_run_ends {s : State} (hc : s.cfg.Legal) (hb : s.busy = false) (hf : s.fault = false)
    (hs : s.schedule = [.hostWrite cmdOffset 0x00000010#32]) (hrange : s.buf.toNat + s.len.toNat < 2 ^ 64) :
    ∃ k u t, Host.Core.run Sys2Proof.core k s = .next t ∧ u.Running ∧ s.accepted.RunFrame u ∧ u.RunInv ∧
      RunEnd u t := by
  obtain ⟨k, u, t, hrun, hu, hframe, hr, hend⟩ := (begun_running hrange hc).ends
    (fun _ _ hv hst => hst.runInv hv) rfl ((begun_runStep hrange).init_runInv rfl)
  exact ⟨k + 1 + 1, u, t, (run_succ (step_accepted hb hf hs) _).trans ((run_succ (step_begun hrange) k).trans hrun), hu,
    ((begun_runStep hrange).frame rfl).trans hframe, hr, hend⟩

/-- Settles O58: a valid buffer leaves only FIN as the last step, and in P_FIN the whole buffer is consumed. -/
theorem crcRunComputesTheCrc : Obligations.CrcRunComputesTheCrc := by
  intro s bytes hc hb hf hs hrange hbytes
  obtain ⟨k, u, t, hrun, hu, hframe, hr, hend⟩ := crc_run_ends hc hb hf hs hrange
  obtain ⟨hbuf, hlen, hseed, hsame⟩ := hframe.operands
  cases hend with
  | range here out =>
    rw [outOfRange_eq_false.2 (by rwa [hbuf, hlen])] at out
    cases out
  | bus started read =>
    rw [← hsame, read.bufferBytes hr] at hbytes
    cases hbytes
  | fin here =>
    obtain ⟨hn, hrem, hptr, bytes', hbytes', hacca⟩ := hu.buffer_of_fin hr here
    obtain rfl : bytes' = bytes := Option.some.inj (hbytes'.symm.trans (hsame.trans hbytes))
    obtain ⟨hja, hjb, haccb⟩ := hu.closed hn
    have hptr' : u.ptr = s.buf + s.len.setWidth 64 := by
      refine BitVec.eq_of_toNat_eq ?_
      rw [hptr, hbuf, hlen, BitVec.toNat_add, BitVec.toNat_setWidth]
      omega
    refine ⟨k, u.k, u.q, hrun.trans (congrArg _ ?_)⟩
    rw [hframe]
    simp only [State.accepted, hn, hrem, hja, hjb, haccb, hptr', hacca, hseed, lo32_zext64]

theorem nextMove_ne_hwReset {s : State} (h : ∀ ms, s.schedule ≠ .hwReset :: ms) : (nextMove s).1 ≠ .hwReset := by
  cases hs : s.schedule with
  | nil => rw [nextMove_nil hs]; nofun
  | cons m ms =>
    rw [nextMove_cons hs]
    exact fun hm => h ms (hm ▸ hs)

/-- Settles O59: the moves of a run one by one, then the two ends by a fault. -/
theorem crcRunFaultsOnAnInvalidBuffer : Obligations.CrcRunFaultsOnAnInvalidBuffer := by
  refine ⟨fun s t hs hb hr hwrite hreset hstep => ?_, fun s hc hb hf hsched => ⟨fun hover => ?_, fun hrange hnone => ?_⟩⟩
  · obtain ⟨ms, hms⟩ := nextMove_state s
    rw [step, hms] at hstep
    exact takeMove_runInv (s := s.withSchedule ms) { hs with } hb (hr.imp_right fun hr => { hr with })
      (nextMove_ne_memWrite hwrite) (nextMove_ne_hwReset hreset) hstep
  · have hfault : exec .init s.accepted = .next (s.accepted.raiseFault .range) :=
      complete_error (if_pos (decide_eq_true hover))
    have hstep : step s.accepted = .next (s.accepted.raiseFault .range) :=
      (Issues.init (s := s.accepted) rfl).step_eq rfl rfl _ hfault
    exact (run_succ (step_accepted hb hf hsched) 1).trans (run_succ hstep 0)
  · obtain ⟨k, u, t, hrun, hu, hframe, hr, hend⟩ := crc_run_ends hc hb hf hsched hrange
    obtain ⟨hbuf, hlen, -, hsame⟩ := hframe.operands
    cases hend with
    | range here out =>
      rw [outOfRange_eq_false.2 (by rwa [hbuf, hlen])] at out
      cases out
    | fin here =>
      obtain ⟨-, -, -, bytes, hbytes, -⟩ := hu.buffer_of_fin hr here
      rw [hsame, hnone] at hbytes
      cases hbytes
    | bus started read =>
      refine ⟨k, u.raiseFault .bus, hrun, (RunEnd.bus started read).runInv hr, read.invalid, ?_⟩
      rw [hframe]
      rfl

end Sys2Proof.Machine
end

section
/-! PROOFS. The table ROM (O57): the recurrence of R98 yields the listing of R140, and since the single-bit steps lose
nothing (R88), an entry that came twice would bring entry 0 back. -/

open Sys2Proof Sys2Proof.Machine

namespace Sys2Proof.Machine

/-! ## The single-bit steps lose nothing -/

/-- The bit shifted out comes back as the top bit of `P`. -/
theorem lfsr1_eq_zero {r : Word32} (h : lfsr1 r = 0) : r = 0 := by
  have hdrop (i : Nat) : r.getLsbD (i + 1) = (r >>> 1).getLsbD i := by
    rw [BitVec.getLsbD_ushiftRight, Nat.add_comm]
  rw [lfsr1] at h
  split at h
  case isTrue =>
    have htop : (r >>> 1).getLsbD 31 = Config.poly.getLsbD 31 := by rw [BitVec.xor_eq_zero_iff.1 h]
    rw [← hdrop, BitVec.getLsbD_of_ge r _ le_rfl] at htop
    exact absurd htop (by decide)
  case isFalse hbit =>
    refine BitVec.eq_of_getLsbD_eq fun i _ => ?_
    cases i with
    | zero => simpa using hbit
    | succ i => rw [hdrop, h]; exact BitVec.getLsbD_zero.trans BitVec.getLsbD_zero.symm

theorem lfsr_eq_zero {r : Word32} {k : Nat} (h : lfsr r k = 0) : r = 0 := by
  induction k with
  | zero => exact h
  | succ k ih => exact ih (lfsr1_eq_zero h)

theorem lfsr_injective (k : Nat) : Function.Injective (lfsr · k) := fun r s (h : lfsr r k = lfsr s k) =>
  BitVec.xor_eq_zero_iff.1 (lfsr_eq_zero ((lfsr_xor r s k).trans (BitVec.xor_eq_zero_iff.2 h)))

/-! ## The entries -/

/-- `j` entries on, an entry is shifted by `j` words. -/
theorem tbl_add (i j : Nat) : tbl (i + j) = lfsr (tbl i) (64 * j) := by
  induction j with
  | zero => rfl
  | succ j ih => rw [← Nat.add_assoc, tbl_succ, ih, ← lfsr_add, Nat.mul_succ]

theorem tbl_eq_lfsr (i : Nat) : tbl i = lfsr 1 (64 * i) := by
  rw [← Nat.zero_add i, tbl_add, Nat.zero_add, tbl]

theorem tbl_ne_zero (i : Nat) : tbl i ≠ 0 := fun h => by
  rw [tbl_eq_lfsr] at h
  exact absurd (lfsr_eq_zero h) (by decide)

/-- Two equal entries bring back entry 0, at their distance. -/
theorem tbl_eq_one_of_eq_add {i d : Nat} (h : tbl i = tbl (i + d)) : tbl d = 1 := by
  rw [Nat.add_comm, tbl_add, tbl_eq_lfsr i] at h
  exact (lfsr_injective (64 * i) h).symm

/-! ## The table -/

/-- An entry does not depend on the table's length (R101). -/
theorem buildTable_getElem? {len i : Nat} (h : i < len) : (buildTable len)[i]? = some (tbl i) := by
  rw [buildTable, List.getElem?_map, List.getElem?_range h, Option.map_some]

theorem map_tbl_range' (i len : Nat) : (List.range' i len).map tbl = List.iterate (lfsr · 64) (tbl i) len := by
  induction len generalizing i with
  | zero => rfl
  | succ len ih => rw [List.range'_succ, List.map_cons, ih, tbl_succ, List.iterate]

/-- The builder's running value (R98) makes one pass over the table. -/
theorem buildTable_eq_iterate (len : Nat) : buildTable len = List.iterate (lfsr · 64) 1 len := by
  rw [buildTable, List.range_eq_range', map_tbl_range', tbl]

theorem buildTable_eq_romListing : buildTable 256 = romListing := by
  rw [buildTable_eq_iterate]
  decide +kernel

theorem romListing_length : romListing.length = 256 := by
  rw [← buildTable_eq_romListing, buildTable, List.length_map, List.length_range]

theorem romListing_getElem? {i : Nat} (h : i < 256) : romListing[i]? = some (tbl i) := by
  rw [← buildTable_eq_romListing, buildTable_getElem? h]

/-- What the listing shows at index `i` is entry `i`. -/
theorem tbl_of_romListing {i : Nat} {v : Word32} (h : romListing[i]? = some v) : tbl i = v := by
  obtain ⟨hi, -⟩ := List.getElem?_eq_some_iff.1 h
  exact Option.some.inj ((romListing_getElem? (romListing_length ▸ hi)).symm.trans h)

theorem zero_not_mem_romListing : 0#32 ∉ romListing := fun h => by
  obtain ⟨i, hi⟩ := List.mem_iff_getElem?.1 h
  exact tbl_ne_zero i (tbl_of_romListing hi)

/-- Entry 0 is not repeated within the table. -/
theorem one_not_mem_romListing_tail : 1#32 ∉ romListing.tail := by decide

theorem tbl_ne_one {d : Nat} (hpos : 0 < d) (hd : d < 256) : tbl d ≠ 1 := fun h => by
  refine one_not_mem_romListing_tail (List.mem_of_getElem? (i := d - 1) ?_)
  rw [List.getElem?_tail, Nat.sub_add_cancel hpos, romListing_getElem? hd, h]
  rfl

theorem tbl_ne_of_lt {i j : Nat} (hij : i < j) (hj : j < 256) : tbl i ≠ tbl j := fun h => by
  obtain ⟨d, rfl⟩ := Nat.exists_eq_add_of_le hij.le
  exact tbl_ne_one (by omega) (by omega) (tbl_eq_one_of_eq_add h)

theorem romListing_nodup : romListing.Nodup := by
  rw [← buildTable_eq_romListing, buildTable, List.Nodup, List.pairwise_map]
  exact List.pairwise_lt_range.imp_of_mem fun _ hj hij => tbl_ne_of_lt hij (List.mem_range.1 hj)

/-- Settles O57: the listing is the 256 entries of the recurrence, so LUTI, which reads entry `i`, reads what is listed
at `i`. -/
theorem romHoldsTheListedTable : Obligations.RomHoldsTheListedTable := by
  refine ⟨tbl_eq_lfsr, fun s i v hi hv => ?_, buildTable_eq_romListing, zero_not_mem_romListing, romListing_nodup,
    fun m n i hm hn => ?_⟩
  · rw [← tbl_of_romListing hv]
    exact (Completes.luti i hi).exec_eq
  · rw [buildTable_getElem? hm, buildTable_getElem? hn]

end Sys2Proof.Machine
end

section
/-! PROOFS. Fault entry: its four writes (O34), and the causes each operation has for it (O35). -/

open Sys2Proof Sys2Proof.Machine

namespace Sys2Proof.Machine

/-! ## The four writes -/

/-- An operation that completes takes no block into P_FAULT: CRC and SRST set another phase, the others set none. -/
theorem Completes.phase_ne_fault {s t : State} {i : Instr} (hc : Completes s i t) (hs : s.phase ≠ .fault) :
    t.phase ≠ .fault := by
  cases hc
  case crc | srst => exact nofun
  all_goals exact hs

/-- Settles O34: what ends in P_FAULT has not completed, so it is the fault entry. -/
theorem faultEntryIsPrecise : Obligations.FaultEntryIsPrecise := by
  intro i s t hs h ht
  obtain ⟨c, rfl⟩ | hc := exec_cases h
  · exact ⟨c, rfl⟩
  · exact absurd ht (hc.phase_ne_fault hs)

/-! ## The causes -/

section

variable {i : Instr} {s t : State} {c : FaultCode}

/-- No completed operation writes a cause into FCODE. -/
theorem Completes.fcode_eq_none (hc : Completes s i t) (hs : s.fcode = none) : t.fcode = none := by
  cases hc
  case srst => rfl
  all_goals exact hs

/-- Where PTR is aligned while a fold is open, the causes of an operation's checks are those R142 lists: the lanes read
at multiples of 8, so that their reads fail by a bus error only. -/
theorem exec_fcode_mem (hal : s.n ≠ 0 → s.ptr.toNat % 8 = 0) (hs : s.fcode = none) (h : exec i s = .next t)
    (ht : t.fcode = some c) : c ∈ faultCauses i := by
  have completed {u : State} (hu : u.fcode = some c) (hkept : u.fcode = s.fcode) : c ∈ faultCauses i :=
    nomatch (hkept.trans hs).symm.trans hu
  have laneFault {a : Addr} {d : FaultCode} (hn : s.n ≠ 0) (ha : a.toNat % 8 = s.ptr.toNat % 8)
      (hd : memRead8 s.mem a = .error d) (hdc : (s.raiseFault d).fcode = some c) : c = .bus := by
    cases hdc
    exact (memRead8_error (ha.trans (hal hn)) hd).1
  cases i
  case nop | s8i | fin | clm | crc => cases h; exact completed ht rfl
  case srst => cases h; cases ht
  case init =>
    obtain ⟨-, rfl⟩ | ⟨-, rfl⟩ := execInit_cases h
    · cases ht; decide
    · exact completed ht rfl
  case s8 =>
    obtain ⟨-, rfl⟩ | ⟨-, -, rfl⟩ | ⟨-, -, -, rfl⟩ | ⟨b, -, -, -, rfl⟩ := execS8_cases h
    case inr.inr.inr => exact completed ht rfl
    all_goals cases ht; decide
  case s64 =>
    obtain ⟨-, rfl⟩ | ⟨-, -, rfl⟩ | ⟨-, -, -, rfl⟩ | ⟨-, -, -, -, rfl⟩ | ⟨w, -, -, -, -, rfl⟩ := execS64_cases h
    case inr.inr.inr.inr => exact completed ht rfl
    all_goals cases ht; decide
  case fset =>
    obtain ⟨-, rfl⟩ | ⟨-, -, rfl⟩ | ⟨-, -, -, rfl⟩ | ⟨-, -, -, rfl⟩ := execFset_cases h
    case inr.inr.inr => exact completed ht rfl
    all_goals cases ht; decide
  case sa =>
    obtain ⟨-, rfl⟩ | ⟨d, hok, hd, rfl⟩ | ⟨w, -, -, rfl⟩ := execSa_cases h
    · cases ht; decide
    · rw [laneFault (not_or.1 hok).1 (laneAAddr_mod_eight s) hd ht]; decide
    · exact completed ht rfl
  case sb =>
    obtain ⟨-, rfl⟩ | ⟨d, hok, hd, rfl⟩ | ⟨w, -, -, rfl⟩ := execSb_cases h
    · cases ht; decide
    · rw [laneFault (not_or.1 hok).1 (laneBAddr_mod_eight s) hd ht]; decide
    · exact completed ht rfl
  case lut =>
    obtain ⟨-, rfl⟩ | ⟨-, -, rfl⟩ | ⟨-, -, rfl⟩ := execLut_cases h
    case inr.inr => exact completed ht rfl
    all_goals cases ht; decide
  case luti index =>
    obtain ⟨-, rfl⟩ | ⟨-, rfl⟩ := execLuti_cases h
    · cases ht; simp [faultCauses]
    · exact completed ht rfl
  case mrg =>
    obtain ⟨-, rfl⟩ | ⟨d, hok, hd, rfl⟩ | ⟨w, -, -, rfl⟩ := execMrg_cases h
    · cases ht; decide
    · rw [laneFault (not_or.1 hok).1 (laneBAddr_mod_eight s) hd ht]; decide
    · exact completed ht rfl
  case adv =>
    obtain ⟨-, rfl⟩ | ⟨-, rfl⟩ := execAdv_cases h
    · cases ht; decide
    · exact completed ht rfl

/-- The last entry of a ROM of 256 is the last an operation can name: LUT's index is `N - 1`, LUTI's is `imm8`. -/
theorem exec_fcode_ne_rom (hwf : i.WellFormed) (hrom : s.cfg.romDepth = 256) (hs : s.fcode = none)
    (h : exec i s = .next t) (ht : t.fcode = some c) (hc : c ∈ faultCauses i) : c ≠ .rom := by
  rintro rfl
  cases i
  case lut =>
    obtain ⟨-, rfl⟩ | ⟨-, hi, -⟩ | ⟨-, -, rfl⟩ := execLut_cases h
    · cases ht
    · have := s.n.isLt
      omega
    · exact nomatch hs.symm.trans ht
  case luti index =>
    obtain ⟨hi, -⟩ | ⟨-, rfl⟩ := execLuti_cases h
    · exact absurd hwf (Nat.not_lt.2 (hrom ▸ hi))
    · exact nomatch hs.symm.trans ht
  all_goals simp [faultCauses] at hc

end

/-- Settles O35: the causes by `exec_fcode_mem`, and LUT and LUTI do not leave a ROM of 256 entries. -/
theorem faultCausesAreTheListedOnes : Obligations.FaultCausesAreTheListedOnes := by
  intro i s t c hs hf h ht
  have hnone := hs.fcode_eq_none hf
  have hlisted := exec_fcode_mem hs.foldAligned hnone h ht
  exact ⟨hlisted, fun hwf hrom => exec_fcode_ne_rom hwf hrom hnone h ht hlisted⟩

end Sys2Proof.Machine
end

section
/-! PROOFS. Moves that are no reset: what they keep of a faulted block (O36), and CERR, which they do not clear and which
no other register depends on (O45). -/

open Sys2Proof Sys2Proof.Machine

namespace Sys2Proof.Machine

/-! ## Moves that are no reset -/

/-- A move other than the engine's comes from the schedule. -/
theorem exists_schedule_of_nextMove {s : State} {m : Move} (h : (nextMove s).1 = m) (hm : m ≠ .engine) :
    ∃ ms, s.schedule = m :: ms := by
  cases hs : s.schedule with
  | nil =>
    rw [nextMove_nil hs] at h
    exact absurd h.symm hm
  | cons m' ms =>
    rw [nextMove_cons hs] at h
    exact ⟨ms, h ▸ rfl⟩

/-- A move that is no reset of the block. -/
structure Move.NoReset (s : State) (m : Move) : Prop where
  /-- It is no hardware reset (R158). -/
  hardware : m ≠ .hwReset
  /-- It is no SRST command that an idle block accepts (R120, R138). -/
  soft : ∀ w, m = .hostWrite cmdOffset w → s.busy = false → decode w ≠ .ok .srst

theorem nextMove_noReset {s : State} (hreset : ∀ ms, s.schedule ≠ .hwReset :: ms)
    (hsrst : ∀ w ms, s.schedule = .hostWrite cmdOffset w :: ms → s.busy = false → decode w ≠ .ok .srst) :
    (nextMove s).1.NoReset (nextMove s).2 := by
  refine ⟨nextMove_ne_hwReset hreset, fun w hm hb => ?_⟩
  obtain ⟨ms, hms⟩ := exists_schedule_of_nextMove hm nofun
  obtain ⟨ms', hstate⟩ := nextMove_state s
  rw [hstate] at hb
  exact hsrst w ms hms hb

/-- CMD is the one place of its offset (R41). -/
theorem eq_cmdOffset_of_regAt : ∀ {off : Offset}, regAt off = some .cmd → off = cmdOffset := by decide

/-- Everything a host write can do but a reset: a dropped access, an operation of an idle block without a fault, or an
operand register (R52, R120). -/
theorem hostWrite_cases_of_noReset {s t : State} {off : Offset} {v : Word32}
    (hm : (Move.hostWrite off v).NoReset s) (h : hostWrite s off v = .next t) :
    t = s.dropAccess ∨ (∃ i, i ≠ .srst ∧ s.fault = false ∧ exec i s = .next t) ∨
      ∃ buf len seed, t = { s with buf := buf, len := len, seed := seed } := by
  obtain rfl | ⟨hcmd, hc⟩ | ⟨-, hoperand⟩ := hostWrite_cases h
  · exact .inl rfl
  · obtain rfl := eq_cmdOffset_of_regAt hcmd
    obtain rfl | ⟨i, hd, hb, hf, he⟩ := command_cases hc
    · exact .inl rfl
    · have hi : i ≠ .srst := fun hi => hm.soft v rfl hb (hi ▸ hd)
      exact .inr (.inl ⟨i, hi, Bool.eq_false_iff.2 (mt hf hi), he⟩)
  · exact .inr (.inr hoperand)

/-! ## The FAULT state -/

/-- A faulted block runs no operation and its engine has no step (R146, R147). -/
theorem Move.NoReset.takeMove_faulted {m : Move} {s t : State} (hm : m.NoReset s) (hb : s.busy = false)
    (hf : s.fault = true) (h : takeMove m s = .next t) : t = { s with
      buf := t.buf, len := t.len, seed := t.seed, cerr := t.cerr, mem := t.mem, schedule := t.schedule,
      replies := t.replies } := by
  cases m with
  | hostWrite off v =>
    obtain rfl | ⟨i, -, hf', -⟩ | ⟨buf, len, seed, rfl⟩ := hostWrite_cases_of_noReset hm h
    · rfl
    · rw [hf] at hf'
      cases hf'
    · rfl
  | hostRead off => cases h; rfl
  | engine =>
    obtain ⟨-, rfl⟩ | ⟨-, -, rfl⟩ | ⟨p, hb', -⟩ | ⟨op, p, u, hb', -⟩ | ⟨u, hb', -⟩ := engineStep_cases h
    case inl | inr.inl => rfl
    all_goals
      rw [hb] at hb'
      cases hb'
  | memWrite a bytes => cases h; rfl
  | hwReset => exact absurd rfl hm.hardware

/-- Settles O36: FAULT = 1 means BUSY = 0 (R43), and taking the move off the schedule changes no register. -/
theorem faultIsStickyUntilReset : Obligations.FaultIsStickyUntilReset := by
  intro s t hs hf hreset hsrst hstep
  have hm := nextMove_noReset hreset fun w ms h _ => hsrst w ms h
  obtain ⟨ms, hms⟩ := nextMove_state s
  rw [hms] at hm
  rw [step, hms] at hstep
  exact hm.takeMove_faulted (s := s.withSchedule ms) (hs.faultStop hf).1 hf hstep

/-! ## CERR stays set -/

/-- No operation but SRST writes CERR (R32). -/
theorem exec_cerr {i : Instr} {s t : State} (hi : i ≠ .srst) (h : exec i s = .next t) : t.cerr = s.cerr := by
  obtain ⟨c, rfl⟩ | hc := exec_cases h
  · rfl
  · cases hc
    case srst => exact absurd rfl hi
    all_goals rfl

theorem Issues.ne_srst {s : State} {op : Instr} {p : Phase} (h : Issues s op p) : op ≠ .srst := by
  cases h <;> exact nofun

/-- The engine issues no SRST, so it leaves CERR as it is. -/
theorem engineStep_cerr {s t : State} (h : engineStep s = .next t) : t.cerr = s.cerr := by
  have htaken := seqAction_taken s
  obtain ⟨-, rfl⟩ | ⟨-, -, rfl⟩ | ⟨p, -, -, rfl⟩ | ⟨op, p, u, -, ha, hu, rfl⟩ | ⟨u, -, -, hu, rfl⟩ := engineStep_cases h
  case inl | inr.inl | inr.inr.inl => rfl
  · rw [ha] at htaken
    have hcerr := exec_cerr (Issues.ne_srst htaken) hu
    split <;> exact hcerr
  · have hcerr := exec_cerr (i := .fin) nofun hu
    split <;> exact hcerr

/-- CERR is sticky: only a reset clears it (R144). -/
theorem Move.NoReset.takeMove_cerr {m : Move} {s t : State} (hm : m.NoReset s) (hs : s.cerr = true)
    (h : takeMove m s = .next t) : t.cerr = true := by
  cases m with
  | hostWrite off v =>
    obtain rfl | ⟨i, hi, -, he⟩ | ⟨buf, len, seed, rfl⟩ := hostWrite_cases_of_noReset hm h
    · rfl
    · exact (exec_cerr hi he).trans hs
    · exact hs
  | hostRead off => cases h; exact hs
  | engine => exact (engineStep_cerr h).trans hs
  | memWrite a bytes => cases h; exact hs
  | hwReset => exact absurd rfl hm.hardware

/-! ## CERR is read by STATUS alone -/

/-- The state with another CERR. -/
def State.withCerr (s : State) (b : Bool) : State := { s with cerr := b }

section

variable {s t : State} {b : Bool}

@[simp] theorem withCerr_busy : (s.withCerr b).busy = s.busy := rfl
@[simp] theorem withCerr_n : (s.withCerr b).n = s.n := rfl
@[simp] theorem withCerr_ptr : (s.withCerr b).ptr = s.ptr := rfl
@[simp] theorem withCerr_cfg : (s.withCerr b).cfg = s.cfg := rfl
@[simp] theorem withCerr_mem : (s.withCerr b).mem = s.mem := rfl
@[simp] theorem withCerr_laneAAddr : (s.withCerr b).laneAAddr = s.laneAAddr := rfl
@[simp] theorem withCerr_laneBAddr : (s.withCerr b).laneBAddr = s.laneBAddr := rfl

/-- If the checks give the same result but for CERR, so does the operation. -/
theorem complete_withCerr {r r' : Except FaultCode State} (h : complete s r = .next t)
    (hr : r.map (·.withCerr b) = r') : complete (s.withCerr b) r' = .next (t.withCerr b) := by
  subst hr
  cases r <;> cases h <;> rfl

/-- No check of an operation reads CERR, and the writes leave it or reset it. -/
theorem exec_withCerr {i : Instr} (b : Bool) (h : exec i s = .next t) :
    ∃ b', exec i (s.withCerr b) = .next (t.withCerr b') := by
  cases i
  case nop | s8i | fin | clm | crc => cases h; exact ⟨b, rfl⟩
  case srst => cases h; exact ⟨false, rfl⟩
  case init | fset | adv => exact ⟨b, complete_withCerr h (by simp only [apply_ite (Except.map _)]; rfl)⟩
  case s8 =>
    refine ⟨b, complete_withCerr h ?_⟩
    simp only [apply_ite (Except.map _), withCerr_mem, withCerr_ptr]
    cases memRead1 s.mem s.ptr <;> rfl
  case s64 =>
    refine ⟨b, complete_withCerr h ?_⟩
    simp only [apply_ite (Except.map _), withCerr_mem, withCerr_ptr]
    cases memRead8 s.mem s.ptr <;> rfl
  case sa =>
    refine ⟨b, complete_withCerr h ?_⟩
    simp only [apply_ite (Except.map _), withCerr_mem, withCerr_laneAAddr]
    cases memRead8 s.mem s.laneAAddr <;> rfl
  case sb | mrg =>
    refine ⟨b, complete_withCerr h ?_⟩
    simp only [apply_ite (Except.map _), withCerr_mem, withCerr_laneBAddr]
    cases memRead8 s.mem s.laneBAddr <;> rfl
  case lut =>
    refine ⟨b, complete_withCerr h ?_⟩
    simp only [apply_ite (Except.map _), withCerr_cfg, withCerr_n]
    cases romRead s.cfg (s.n.toNat - 1) <;> rfl
  case luti index =>
    refine ⟨b, complete_withCerr h ?_⟩
    simp only [withCerr_cfg]
    cases romRead s.cfg index <;> rfl

/-- An operation the sequencer issues comes out the same but for CERR, whatever follows it. -/
theorem issueThen_withCerr {op : Instr} {after : State → State} (b : Bool)
    (hafter : ∀ u b, after (u.withCerr b) = (after u).withCerr b) (h : issueThen op after s = .next t) :
    ∃ b', issueThen op after (s.withCerr b) = .next (t.withCerr b') := by
  obtain ⟨u, hu, hi⟩ := issueThen_next op after s
  obtain ⟨b', hb'⟩ := exec_withCerr b hu
  rw [hi] at h
  cases h
  refine ⟨b', ?_⟩
  simp only [issueThen, hb', withCerr_busy, hafter, apply_ite (State.withCerr · b')]

/-- Neither the phase nor a predicate of R39 depends on CERR. -/
theorem engineStep_withCerr (b : Bool) (h : engineStep s = .next t) :
    ∃ b', engineStep (s.withCerr b) = .next (t.withCerr b') := by
  have haction : seqAction (s.withCerr b) = seqAction s := rfl
  unfold engineStep seqStep at h ⊢
  rw [withCerr_busy, haction]
  split at h
  case isFalse hb => cases h; exact ⟨b, by rw [if_neg hb]⟩
  case isTrue hb =>
    rw [if_pos hb]
    cases ha : seqAction s with
    | issue op p =>
      rw [ha] at h
      exact issueThen_withCerr b (fun _ _ => rfl) h
    | goto p =>
      rw [ha] at h
      cases h
      exact ⟨b, rfl⟩
    | finish =>
      rw [ha] at h
      exact issueThen_withCerr b (fun _ _ => rfl) h
    | rest =>
      rw [ha] at h
      cases h
      exact ⟨b, rfl⟩

/-- The acceptance of a command word tests BUSY and FAULT, not CERR (R120). -/
theorem command_withCerr {w : Word32} (b : Bool) (h : command w s = .next t) :
    ∃ b', command w (s.withCerr b) = .next (t.withCerr b') := by
  cases hd : decode w with
  | error e =>
    rw [command_illegal hd] at h
    cases h
    exact ⟨true, command_illegal hd⟩
  | ok i =>
    by_cases hb : s.busy = true
    · rw [command_busy hd hb] at h
      cases h
      exact ⟨true, command_busy (s := s.withCerr b) hd hb⟩
    rw [Bool.not_eq_true] at hb
    by_cases hok : s.fault = false ∨ i = .srst
    · rw [command_accepted hd hb hok] at h
      rw [command_accepted (s := s.withCerr b) hd hb hok]
      exact exec_withCerr b h
    · obtain ⟨hf, hi⟩ := not_or.1 hok
      rw [Bool.not_eq_false] at hf
      rw [command_faulted hd hb hf hi] at h
      cases h
      exact ⟨true, command_faulted (s := s.withCerr b) hd hb hf hi⟩

theorem operandWrite_withCerr {written written' : State} (b : Bool) (hw : written' = written.withCerr b)
    (h : operandWrite s written = .next t) : ∃ b', operandWrite (s.withCerr b) written' = .next (t.withCerr b') := by
  subst hw
  obtain ⟨hb, rfl⟩ | ⟨hb, rfl⟩ := operandWrite_cases h
  · exact ⟨true, operandWrite_busy _ hb⟩
  · exact ⟨b, operandWrite_idle _ hb⟩

/-- A host write is a command, a write to an operand register, or dropped, whatever CERR is (R52). -/
theorem hostWrite_withCerr {off : Offset} {v : Word32} (b : Bool) (h : hostWrite s off v = .next t) :
    ∃ b', hostWrite (s.withCerr b) off v = .next (t.withCerr b') := by
  unfold hostWrite at h ⊢
  split at h
  case h_1 => exact command_withCerr b h
  case h_2 | h_3 | h_4 | h_5 => exact operandWrite_withCerr b rfl h
  all_goals
    cases h
    exact ⟨true, rfl⟩

/-- STATUS stands at 0x04 (R41). -/
theorem eq_one_of_regAt : ∀ {off : Offset}, regAt off = some .status → off = 1 := by decide

/-- STATUS is the one register of the window that shows CERR (R43). -/
theorem hostReadValue_withCerr {off : Offset} (b : Bool) (hoff : off ≠ 1) :
    hostReadValue (s.withCerr b) off = hostReadValue s off := by
  unfold hostReadValue
  cases hr : regAt off with
  | none => rfl
  | some r =>
    cases r
    case status => exact absurd (eq_one_of_regAt hr) hoff
    all_goals rfl

/-- But for a read of STATUS, a move does the same whatever CERR is (R144). -/
theorem takeMove_withCerr {m : Move} (b : Bool) (hm : m ≠ .hostRead 1) (h : takeMove m s = .next t) :
    ∃ b', takeMove m (s.withCerr b) = .next (t.withCerr b') := by
  cases m with
  | hostWrite off v => exact hostWrite_withCerr b h
  | hostRead off =>
    cases h
    refine ⟨b, ?_⟩
    rw [takeMove, hostRead, hostReadValue_withCerr b fun hoff => hm (hoff ▸ rfl)]
    rfl
  | engine => exact engineStep_withCerr b h
  | memWrite a bytes => cases h; exact ⟨b, rfl⟩
  | hwReset => cases h; exact ⟨false, rfl⟩

/-- The next move does not depend on CERR. -/
theorem step_withCerr (s : State) (b : Bool) :
    step (s.withCerr b) = takeMove (nextMove s).1 ((nextMove s).2.withCerr b) := by
  cases hs : s.schedule with
  | nil => rw [nextMove_nil hs, step, nextMove_nil (s := s.withCerr b) hs]
  | cons m ms => rw [nextMove_cons hs, step_cons (s := s.withCerr b) hs]; rfl

end

/-- Settles O45: the move is no reset, so CERR stays; and it is no read of STATUS, so it does the same. -/
theorem commandErrorMarkIsInert : Obligations.CommandErrorMarkIsInert := by
  refine fun s t hstep => ⟨fun hcerr hreset hsrst => ?_, fun b hread => ?_⟩
  · have hm := nextMove_noReset hreset hsrst
    obtain ⟨ms, hms⟩ := nextMove_state s
    rw [hms] at hm
    rw [step, hms] at hstep
    exact hm.takeMove_cerr (s := s.withSchedule ms) hcerr hstep
  · obtain ⟨b', hb'⟩ := takeMove_withCerr b (fun hm => (exists_schedule_of_nextMove hm nofun).elim hread) hstep
    exact ⟨b', (step_withCerr s b).trans hb'⟩

end Sys2Proof.Machine
end

section
/-! PROOFS. The reset: its values (O31), the invariant (O39), and the first command after it (O32). -/

open Sys2Proof Sys2Proof.Machine

namespace Sys2Proof.Machine

/-! ## The state after reset -/

/-- ID stands at 0x1C (R41). -/
theorem regAt_eq_id_iff : ∀ off : Offset, regAt off = some .id ↔ off.val = 7 := by decide

/-- After reset every register but ID reads 0, and so does an unmapped offset (R53, R159). -/
theorem hostReadValue_reset (off : Offset) :
    hostReadValue State.reset off = if regAt off = some .id then idConstant else 0 := by
  unfold hostReadValue
  cases regAt off with
  | none => rfl
  | some r => cases r <;> rfl

/-- Settles O31: a reset of either kind is `resetBlock`, and the window shows the registers' values. -/
theorem resetValues : Obligations.ResetValues := by
  refine ⟨by decide, fun off => ?_, fun s ms hs => step_cons hs, fun s => Completes.srst.exec_eq⟩
  simp only [hostReadValue_reset, regAt_eq_id_iff]
  rfl

/-- Settles O39: no fold is open, memory is empty, and the block rests in P_IDLE. -/
theorem resetMeetsTheInvariant : Obligations.ResetMeetsTheInvariant := by
  have hregs : State.reset.RegInv := .of_closed (by decide) ⟨.nil, nofun⟩ nofun rfl rfl rfl rfl (Nat.two_pow_pos 32)
    (Nat.two_pow_pos 63) (Nat.two_pow_pos 64)
  exact hregs.inv_idle rfl rfl rfl rfl

/-! ## Single operations before an INIT -/

/-- With no fold open and no byte left, the operations that consume bytes fault with F_UNDER (R107, R108, R111). -/
theorem exec_under_of_empty {s : State} (hn : s.n = 0) (hrem : s.rem = 0) :
    exec .s8 s = .next (s.raiseFault .under) ∧ exec .s64 s = .next (s.raiseFault .under) ∧
      exec .fset s = .next (s.raiseFault .under) := by
  have hclosed : ¬s.n ≠ 0 := not_not.2 hn
  exact ⟨complete_error ((if_neg hclosed).trans (if_pos hrem)),
    complete_error ((if_neg hclosed).trans (if_pos (by simp [hrem]))),
    complete_error ((if_neg hclosed).trans (if_pos (by simp [hrem])))⟩

/-- With no fold open, the operations of an open fold fault with F_SEQ (R112 to R114, R117, R118). -/
theorem exec_seq_of_closed {s : State} (hn : s.n = 0) :
    exec .sa s = .next (s.raiseFault .seq) ∧ exec .sb s = .next (s.raiseFault .seq) ∧
      exec .lut s = .next (s.raiseFault .seq) ∧ exec .mrg s = .next (s.raiseFault .seq) ∧
      exec .adv s = .next (s.raiseFault .seq) :=
  ⟨complete_error (if_pos (.inl hn)), complete_error (if_pos (.inl hn)), complete_error (if_pos hn),
    complete_error (if_pos (.inl hn)), complete_error (if_pos (.inl hn))⟩

/-! ## The run over the empty buffer -/

/-- The engine's step out of a phase that issues no operation. -/
theorem Leaves.step_eq {s : State} {p : Phase} (h : Leaves s p) (hquiet : s.schedule = []) (hb : s.busy = true) :
    step s = .next (s.gotoPhase p) :=
  (step_quiet hquiet).trans (h.engineStep_eq hb)

/-- A run over the empty buffer takes 7 steps: CRC's acceptance, INIT, four transitions and FIN. Its result is the seed
(R124 to R126, R132 to R134). -/
theorem run_empty_buffer {s : State} (hb : s.busy = false) (hf : s.fault = false)
    (hs : s.schedule = [.hostWrite cmdOffset 0x00000010#32]) (hlen : s.len = 0) (hleaf : 0 < s.cfg.leafBytes) :
    Host.Core.run Sys2Proof.core 7 s =
      .next { s.begun with result := s.seed, done := true, phase := .idle, busy := false } := by
  have hrange : s.buf.toNat + s.len.toNat < 2 ^ 64 := by rw [hlen]; exact s.buf.isLt
  have hrem : s.begun.rem = 0 := hlen
  have hleaf' : s.begun.cfg.leafBytes ≠ 0 := hleaf.ne'
  have hmore (p : Phase) : ¬(s.begun.gotoPhase p).more = true := by simp [more_iff, hrem]
  have hbulk (p : Phase) : ¬(s.begun.gotoPhase p).bulk = true := by simp [bulk_iff, hrem, hleaf']
  have hword (p : Phase) : ¬(s.begun.gotoPhase p).word = true := by simp [word_iff, hrem]
  have leave {p q : Phase} (h : Leaves (s.begun.gotoPhase p) q) :
      step (s.begun.gotoPhase p) = .next (s.begun.gotoPhase q) := h.step_eq rfl rfl
  have hfin : step (s.begun.gotoPhase .fin) =
      .next { s.begun with result := s.seed, done := true, phase := .idle, busy := false } := by
    rw [step_quiet rfl, engineStep_fin rfl rfl, ← lo32_zext64 s.seed]
    rfl
  calc Host.Core.run Sys2Proof.core 7 s
      = Host.Core.run Sys2Proof.core 6 s.accepted := run_succ (step_accepted hb hf hs) 6
    _ = Host.Core.run Sys2Proof.core 5 (s.begun.gotoPhase .align) := run_succ (step_begun hrange) 5
    _ = Host.Core.run Sys2Proof.core 4 (s.begun.gotoPhase .bulk) :=
        run_succ (leave (.align rfl fun h => hmore _ h.2)) 4
    _ = Host.Core.run Sys2Proof.core 3 (s.begun.gotoPhase .wtail) := run_succ (leave (.bulk rfl (hbulk _))) 3
    _ = Host.Core.run Sys2Proof.core 2 (s.begun.gotoPhase .btail) := run_succ (leave (.wtail rfl (hword _))) 2
    _ = Host.Core.run Sys2Proof.core 1 (s.begun.gotoPhase .fin) := run_succ (leave (.btail rfl (hmore _))) 1
    _ = .next { s.begun with result := s.seed, done := true, phase := .idle, busy := false } := run_succ hfin 0

/-- Settles O32: REM = 0 and N = 0 decide the checks, the other operations meet the zero state, and CRC's buffer is
empty. -/
theorem firstCommandAfterReset : Obligations.FirstCommandAfterReset := by
  rintro m r rfl
  obtain ⟨hs8, hs64, hfset⟩ := exec_under_of_empty (s := { State.reset with mem := m }) rfl rfl
  obtain ⟨hsa, hsb, hlut, hmrg, hadv⟩ := exec_seq_of_closed (s := { State.reset with mem := m }) rfl
  obtain ⟨-, hclmAll⟩ := clmMultipliesKByLaneA
  obtain ⟨-, -, -, hclm⟩ := hclmAll { State.reset with mem := m }
  exact ⟨hs8, hs64, hfset, hsa, hsb, hlut, hmrg, hadv, Completes.nop.exec_eq, hclm (.inl rfl), Completes.fin.exec_eq,
    (Completes.init rfl).exec_eq, Completes.srst.exec_eq, fun byte => (Completes.s8i byte).exec_eq,
    fun index hi => (Completes.luti index hi).exec_eq, run_empty_buffer rfl rfl rfl rfl (show 0 < 112 by decide)⟩

end Sys2Proof.Machine
end

section
/-! PROOFS. The round trip of command words: the words of operations decode (O1), the words that decode are words of
operations (O2), and the words written out bit by bit (O5). A word is its three fields (R74, R75), so both halves
compare the fields the decoder reads with the fields the encoder writes. -/

namespace Sys2Proof

/-! ## A word is its fields -/

/-- The opcode, the immediate and the bits above them fix a command word (R74, R75). -/
theorem eq_of_fields_eq {v w : Word32} (hop : opcodeField v = opcodeField w) (himm : imm8Field v = imm8Field w)
    (hzero : zeroFieldI v = zeroFieldI w) : v = w := by
  simp only [BitVec.toNat_eq, opcodeField_toNat, imm8Field_toNat, zeroFieldI_toNat] at *
  omega

/-- An operation's word is the one that holds its opcode, its immediate and zeros above (R74, R75). -/
theorem encode_eq_iff {i : Instr} {w : Word32} :
    encode i = w ↔ opcodeField w = opcodeOf i ∧ imm8Field w = immediateOf i ∧ zeroFieldI w = 0#16 := by
  have hfields : Laws.EncodeFields.Statement i := Laws.EncodeFields.fields_of_word _ _
  constructor
  · rintro rfl
    exact hfields
  · obtain ⟨hop, himm, hzero⟩ := hfields
    rintro ⟨hop', himm', hzero'⟩
    exact eq_of_fields_eq (hop.trans hop'.symm) (himm.trans himm'.symm) (hzero.trans hzero'.symm)

/-! ## The operations of the two formats -/

section
variable {op imm8 : BitVec 8} {i : Instr}

/-- What format I reads is well-formed, and its opcode and immediate are the ones read (R75 to R77). -/
theorem formatI_reads (h : formatI op imm8 = some i) : i.WellFormed ∧ op = opcodeOf i ∧ imm8 = immediateOf i := by
  obtain ⟨hop, rfl⟩ | ⟨hop, rfl⟩ := formatI_eq_some_iff.1 h
  · exact ⟨trivial, hop, rfl⟩
  · exact ⟨imm8.isLt, hop, by simp [immediateOf]⟩

/-- What format Z reads is well-formed and carries no immediate (R74, R77). -/
theorem formatZ_reads (h : formatZ op = some i) : i.WellFormed ∧ op = opcodeOf i ∧ immediateOf i = 0#8 := by
  obtain rfl := formatZ_eq_some h
  cases i
  case s8i | luti => cases h
  all_goals exact ⟨trivial, rfl, rfl⟩

/-- Each well-formed operation stands in one of the two formats, at its own opcode and immediate (R77). -/
theorem format_of_wellFormed (h : i.WellFormed) :
    formatI (opcodeOf i) (immediateOf i) = some i ∨ (formatZ (opcodeOf i) = some i ∧ immediateOf i = 0#8) := by
  cases i
  case s8i byte => exact .inl rfl
  case luti index => exact .inl (congrArg (fun n => some (Instr.luti n)) (Nat.mod_eq_of_lt h))
  all_goals exact .inr ⟨rfl, rfl⟩

end

/-! ## The round trip -/

/-- The words that decode to an operation: its encoding, if it is well-formed, and no other (R78, R80). -/
theorem decode_eq_ok_iff_encode {w : Word32} {i : Instr} : decode w = .ok i ↔ i.WellFormed ∧ encode i = w := by
  rw [decode_eq_ok_iff, zeroFieldZ_eq_zero_iff, encode_eq_iff]
  constructor
  · rintro (⟨hI, hzero⟩ | ⟨hZ, himm8, hzero⟩)
    · obtain ⟨hwf, hop, himm⟩ := formatI_reads hI
      exact ⟨hwf, hop, himm, hzero⟩
    · obtain ⟨hwf, hop, himm⟩ := formatZ_reads hZ
      exact ⟨hwf, hop, himm8.trans himm.symm, hzero⟩
  · rintro ⟨hwf, hop, himm, hzero⟩
    rw [hop, himm]
    obtain hI | ⟨hZ, hnone⟩ := format_of_wellFormed hwf
    · exact .inl ⟨hI, hzero⟩
    · exact .inr ⟨hZ, hnone, hzero⟩

/-- Settles O1: an operation's word is a word that decodes to it. -/
theorem decodeOfEncode : Obligations.DecodeOfEncode := fun _ h => decode_eq_ok_iff_encode.2 ⟨h, rfl⟩

/-- Settles O2: the fields a decoded word has passed are those of the operation's encoding. -/
theorem encodeOfDecode : Obligations.EncodeOfDecode := fun _ _ => decode_eq_ok_iff_encode.1

/-- Settles O5: each of the seven words is the encoding of its operation. -/
theorem writtenOutWordsDecode : Obligations.WrittenOutWordsDecode :=
  ⟨decode_eq_ok_iff_encode.2 ⟨trivial, rfl⟩, decode_eq_ok_iff_encode.2 ⟨trivial, rfl⟩,
    decode_eq_ok_iff_encode.2 ⟨trivial, rfl⟩, decode_eq_ok_iff_encode.2 ⟨show 3 < 256 by decide, rfl⟩,
    decode_eq_ok_iff_encode.2 ⟨trivial, rfl⟩, decode_eq_ok_iff_encode.2 ⟨trivial, rfl⟩,
    decode_eq_ok_iff_encode.2 ⟨trivial, rfl⟩⟩

end Sys2Proof
end
